-- ==== Sys2Proof/Word.lean ====
section
/-! DEFINITION. The byte, the 16-bit word and the packet record: the values the block works on. -/

namespace Sys2Proof

/-- A byte: 8 bits, numbered from 0 upward (R8). -/
abbrev Byte := BitVec 8

/-- A 16-bit field value: marker, type, count or size (R6). -/
abbrev Word := BitVec 16

/-- The packet record of R31. It is a value the host holds, not block state (R31, R34).
The marker is kept as a field although R71 allows leaving it out, because R79 speaks of
"whatever `p.marker` holds" (log 11). The size is derived and is no field (R76). -/
structure Packet where
  marker : Word
  type : Word
  count : Word
  payload : List Byte
  deriving DecidableEq, Repr

end Sys2Proof
end

