-- ==== Sys2Proof/Config.lean ====
section
/-! DEFINITION. What is fixed for the life of the block (R4 to R7), and the free values: the
constants without a body, which no proof can see. -/

namespace Sys2Proof

/-- The configuration `SOP` (R4) and `MAX_PAYLOAD` (R5): "process-wide immutable configuration" (R7).
The defaults are the spec's, from numerals it calls unaudited (UNVERIFIED, log 4): a statement for
every configuration is safe, one at the defaults is not. `Fin 65536` is R5's bound
`0 ≤ MAX_PAYLOAD ≤ 65535`. -/
structure Config where
  sop : Word := 0xB0B2
  maxPayload : Fin 65536 := 1024
  deriving DecidableEq, Repr

/-- `HEADER_SIZE`, a constant and no parameter (R6). -/
def Config.headerSize : Nat := 8

/-- The four 2-byte field buffers of the decoder (R15, R35). -/
inductive FieldBuffer where
  | marker
  | type
  | count
  | size
  deriving DecidableEq, Repr

/-- FREE VALUE (U12, log 10): what the storage of a field buffer holds at an index beyond its fill count.
The first argument is `dec.epoch`, since storage can change whenever the decoder does. It is reached only from
states that the decoder's rules never reach. -/
opaque Config.storageBeyondFill : Nat → FieldBuffer → Nat → Byte

/-- OPEN PARAMETER `FORMAT_TEXT` (R78, D23, log 16): the host-side formatter's exact text for a packet, given
whether its payload is printable. No rule of the block reads it. -/
opaque Config.formatText : Bool → Packet → String

end Sys2Proof
end

