-- ==== Sys2Proof/Syntax.lean ====
section
/-! DEFINITION. The ten operations the host can issue (R59), with their typed operands (R65). -/

namespace Sys2Proof

/-- One constructor per row of spec/opcode_table.json, in the table's order (R59, R61).
Integers are unbounded, a buffer is `none` or a list of integers, an offset is a natural number, a payload is a list
of bytes of any length, and a packet operand is a packet record of any payload length (R65). -/
inductive Instr where
  /-- RESET (R84). -/
  | reset
  /-- DECODE_BYTE `v` (R85). -/
  | decodeByte (v : Int)
  /-- DECODE_BUFFER `buf, offset` (R93). -/
  | decodeBuffer (buf : Option (List Int)) (offset : Nat)
  /-- GET_PACKET (R94). -/
  | getPacket
  /-- ENCODE `p` (R79). -/
  | encode (p : Packet)
  /-- ENCODE_RAW `type, count, payload` (R80). -/
  | encodeRaw (type count : Int) (payload : List Byte)
  /-- PKT_NEW `type, count, payload` (R72). -/
  | pktNew (type count : Int) (payload : List Byte)
  /-- PKT_SET_TYPE `p, v` (R73). -/
  | pktSetType (p : Packet) (v : Int)
  /-- PKT_SET_COUNT `p, v` (R74). -/
  | pktSetCount (p : Packet) (v : Int)
  /-- PKT_SET_PAYLOAD `p, payload` (R75). -/
  | pktSetPayload (p : Packet) (payload : List Byte)
  deriving DecidableEq, Repr

end Sys2Proof
end

