-- ==== Sys2Proof/WellFormed.lean ====
section
/-! DEFINITION. Which operands are packet records of R31. Every other domain of R65 is the operand's type. -/

namespace Sys2Proof

/-- `p.marker` is "always `SOP`" (R31, R71). -/
def Packet.wellFormed (cfg : Config) (p : Packet) : Bool :=
  p.marker == cfg.sop

/-- An instruction is well-formed when its packet operand, if it has one, is a packet record of R31.
The payload's length is not checked: R65 assumes no bound on ENCODE's operand, and the raising operations check their
own. An ill-formed instruction still has its meaning (R79: "whatever `p.marker` holds"; log 11). -/
def Instr.wellFormed (cfg : Config) : Instr → Bool
  | .reset => true
  | .decodeByte _ => true
  | .decodeBuffer _ _ => true
  | .getPacket => true
  | .encode p => p.wellFormed cfg
  | .encodeRaw _ _ _ => true
  | .pktNew _ _ _ => true
  | .pktSetType p _ => p.wellFormed cfg
  | .pktSetCount p _ => p.wellFormed cfg
  | .pktSetPayload p _ => p.wellFormed cfg

end Sys2Proof
end

