-- ==== Sys2Proof/Decode.lean ====
section
/-! DEFINITION. The operation interface (R60 to R62): a command is an 8-bit code with typed operands beside it.
The opcode table, the decoder, then the encoder. -/

namespace Sys2Proof

/-- The operand shapes of R60. -/
inductive Format where
  | f0
  | fb
  | fbuf
  | fp
  | ftcp
  | fpv
  | fpl
  deriving DecidableEq, Repr

/-- The ten operations, without operands (R59). -/
inductive Opcode where
  | reset
  | decodeByte
  | decodeBuffer
  | getPacket
  | encode
  | encodeRaw
  | pktNew
  | pktSetType
  | pktSetCount
  | pktSetPayload
  deriving DecidableEq, Repr

/-- The operands that travel beside a command, one constructor per format of R60 (R65). -/
inductive Operands where
  | f0
  | fb (v : Int)
  | fbuf (buf : Option (List Int)) (offset : Nat)
  | fp (p : Packet)
  | ftcp (type count : Int) (payload : List Byte)
  | fpv (p : Packet) (v : Int)
  | fpl (p : Packet) (payload : List Byte)
  deriving DecidableEq, Repr

/-- A command: its code and its operands (R60). -/
structure Command where
  code : Byte
  operands : Operands
  deriving DecidableEq, Repr

/-- A row of R61's table. -/
structure OpcodeRow where
  mask : Byte
  pattern : Byte
  mnemonic : String
  format : Format
  opcode : Opcode
  deriving DecidableEq, Repr

/-- Why a command decodes to no instruction. -/
inductive DecodeReject where
  /-- A reserved command code (R62, U10). -/
  | reservedCode (code : Byte)
  /-- The operands are not of the code's format: a "malformed argument" (U13, D19, log 12). -/
  | malformedOperands (code : Byte)
  deriving DecidableEq, Repr

/-- `cmd[7:4]`, which must be 0 (R60). -/
def Command.rsv (c : Command) : BitVec 4 := c.code.extractLsb' 4 4

/-- `cmd[3:0]`, the operation select (R60). -/
def Command.op (c : Command) : BitVec 4 := c.code.extractLsb' 0 4

/-- The command codes of R61, in its order. -/
def opcodeTable : List OpcodeRow :=
  [ ⟨0xFF, 0x00, "RESET", .f0, .reset⟩,
    ⟨0xFF, 0x01, "DECODE_BYTE", .fb, .decodeByte⟩,
    ⟨0xFF, 0x02, "DECODE_BUFFER", .fbuf, .decodeBuffer⟩,
    ⟨0xFF, 0x03, "GET_PACKET", .f0, .getPacket⟩,
    ⟨0xFF, 0x04, "ENCODE", .fp, .encode⟩,
    ⟨0xFF, 0x05, "ENCODE_RAW", .ftcp, .encodeRaw⟩,
    ⟨0xFF, 0x06, "PKT_NEW", .ftcp, .pktNew⟩,
    ⟨0xFF, 0x07, "PKT_SET_TYPE", .fpv, .pktSetType⟩,
    ⟨0xFF, 0x08, "PKT_SET_COUNT", .fpv, .pktSetCount⟩,
    ⟨0xFF, 0x09, "PKT_SET_PAYLOAD", .fpl, .pktSetPayload⟩ ]

/-- A code selects the row whose pattern it shows under the row's mask (R61). -/
def OpcodeRow.selects (r : OpcodeRow) (code : Byte) : Bool :=
  code &&& r.mask == r.pattern

/-- The row a code selects, if it is not reserved (R61, R62). -/
def lookupCode (code : Byte) : Option OpcodeRow :=
  opcodeTable.find? (fun r => r.selects code)

/-- The instruction of an operation with operands of its format (R60); `none` for any other operands. -/
def assemble (op : Opcode) (x : Operands) : Option Instr :=
  match op, x with
  | .reset, .f0 => some .reset
  | .decodeByte, .fb v => some (.decodeByte v)
  | .decodeBuffer, .fbuf buf offset => some (.decodeBuffer buf offset)
  | .getPacket, .f0 => some .getPacket
  | .encode, .fp p => some (.encode p)
  | .encodeRaw, .ftcp t c pl => some (.encodeRaw t c pl)
  | .pktNew, .ftcp t c pl => some (.pktNew t c pl)
  | .pktSetType, .fpv p v => some (.pktSetType p v)
  | .pktSetCount, .fpv p v => some (.pktSetCount p v)
  | .pktSetPayload, .fpl p pl => some (.pktSetPayload p pl)
  | _, _ => none

/-- The decoder of commands: total, and rejecting by name (R60 to R62). -/
def decode (c : Command) : Except DecodeReject Instr :=
  match lookupCode c.code with
  | none => .error (.reservedCode c.code)
  | some row =>
    match assemble row.opcode c.operands with
    | none => .error (.malformedOperands c.code)
    | some i => .ok i

/-- The operation of an instruction. -/
def Instr.opcode : Instr → Opcode
  | .reset => .reset
  | .decodeByte _ => .decodeByte
  | .decodeBuffer _ _ => .decodeBuffer
  | .getPacket => .getPacket
  | .encode _ => .encode
  | .encodeRaw _ _ _ => .encodeRaw
  | .pktNew _ _ _ => .pktNew
  | .pktSetType _ _ => .pktSetType
  | .pktSetCount _ _ => .pktSetCount
  | .pktSetPayload _ _ => .pktSetPayload

/-- The encoder of commands, written from R61's table: code and operands of an instruction. -/
def encode : Instr → Command
  | .reset => ⟨0x00, .f0⟩
  | .decodeByte v => ⟨0x01, .fb v⟩
  | .decodeBuffer buf offset => ⟨0x02, .fbuf buf offset⟩
  | .getPacket => ⟨0x03, .f0⟩
  | .encode p => ⟨0x04, .fp p⟩
  | .encodeRaw t c pl => ⟨0x05, .ftcp t c pl⟩
  | .pktNew t c pl => ⟨0x06, .ftcp t c pl⟩
  | .pktSetType p v => ⟨0x07, .fpv p v⟩
  | .pktSetCount p v => ⟨0x08, .fpv p v⟩
  | .pktSetPayload p pl => ⟨0x09, .fpl p pl⟩

/-- The format of an operand bundle (R60). -/
def Operands.format : Operands → Format
  | .f0 => .f0
  | .fb _ => .fb
  | .fbuf _ _ => .fbuf
  | .fp _ => .fp
  | .ftcp _ _ _ => .ftcp
  | .fpv _ _ => .fpv
  | .fpl _ _ => .fpl

/-- The packet record with zero fields; its marker is the default `SOP`, as every packet record's is (R31). -/
def Packet.zero : Packet := ⟨0xB0B2, 0, 0, []⟩

/-- The operands of a format with every value zero, empty or absent (log 13). -/
def Operands.zero : Format → Operands
  | .f0 => .f0
  | .fb => .fb 0
  | .fbuf => .fbuf none 0
  | .fp => .fp Packet.zero
  | .ftcp => .ftcp 0 0 []
  | .fpv => .fpv Packet.zero 0
  | .fpl => .fpl Packet.zero []

/-- The command the host's opcode-table word stands for: `w`'s low `nbits` bits as the code, with zero
operands of the code's format beside it (log 13). -/
def Command.ofTableWord (nbits w : Nat) : Command :=
  let code : Byte := BitVec.ofNat 8 (w % 2 ^ nbits)
  match lookupCode code with
  | none => ⟨code, .f0⟩
  | some row => ⟨code, Operands.zero row.format⟩

/-- The instruction the decoder reads from an opcode-table word. -/
def decodeTableWord (nbits w : Nat) : Option Instr :=
  match decode (Command.ofTableWord nbits w) with
  | .ok i => some i
  | .error _ => none

end Sys2Proof
end

