-- ==== Sys2Proof/Machine/State.lean ====
section
/-! DEFINITION. The state: the decoder's fields (R15), the staleness counter (R33), the configuration, and the
host's side of the operation interface. -/

namespace Sys2Proof.Machine

/-- The decoder's phase: "one of" six, "exactly one active at a time" (R16). -/
inductive Phase where
  | awaitingMarker
  | awaitingType
  | awaitingCount
  | awaitingSize
  | awaitingPayload
  | complete
  deriving DecidableEq, Repr

/-- The status vocabulary (R63). `errorOverflow` is reserved and no operation produces it (R70). -/
inductive Status where
  | success
  | inProgress
  | errorInvalidMarker
  | errorPayloadTooLarge
  | errorOverflow
  | errorNullOrInvalidParam
  deriving DecidableEq, Repr

/-- The decoder's fields, "`dec.f`" in the spec (R15). -/
structure Decoder where
  /-- R16. -/
  phase : Phase
  /-- R17. -/
  markerBuf : List Byte
  /-- R18. -/
  typeBuf : List Byte
  /-- R19. -/
  countBuf : List Byte
  /-- R20. -/
  sizeBuf : List Byte
  /-- R21. -/
  payloadBuf : List Byte
  /-- R22. -/
  expectedPayloadSize : Word
  /-- R23. -/
  headerComplete : Bool
  deriving DecidableEq, Repr

/-- A packet GET_PACKET returned, with the epoch it is tagged with (R33). The host holds it. -/
structure Retrieved where
  packet : Packet
  tag : Nat
  deriving DecidableEq, Repr

/-- The parts of a retrieved packet the host can read (R127). -/
inductive PacketField where
  | marker
  | type
  | count
  | payload
  deriving DecidableEq, Repr

/-- What a host read of a packet's part gives. -/
inductive FieldValue where
  | word (v : Word)
  | bytes (l : List Byte)
  deriving DecidableEq, Repr

/-- What the host does, one action at a time (R132, log 1). -/
inductive HostAction where
  /-- Issue a command (R59). -/
  | issue (c : Command)
  /-- Read a part of a packet that GET_PACKET returned (R127, log 8). -/
  | readPacket (q : Retrieved) (f : PacketField)
  /-- Issue two operations that overlap: undefined behaviour, refused (R47, R121, log 7). -/
  | overlap (first second : Command)
  deriving DecidableEq, Repr

/-- A construction fault, raised to the host (R103, R104). It carries the offending length. -/
inductive ConstructionFault where
  | payloadTooLarge (length : Nat)
  deriving DecidableEq, Repr

/-- The result an action returns to the host (R66). -/
inductive Response where
  /-- RESET "returns nothing" (R66): it is done. -/
  | done
  /-- DECODE_BYTE's status. -/
  | status (st : Status)
  /-- DECODE_BUFFER's status and "index of the first unconsumed byte". -/
  | statusIndex (st : Status) (index : Nat)
  /-- GET_PACKET's packet, or the "absence indicator". -/
  | retrieved (q : Option Retrieved)
  /-- ENCODE's and ENCODE_RAW's byte list. -/
  | frame (bytes : List Byte)
  /-- A packet operation's packet record. -/
  | packet (p : Packet)
  /-- `raise`: no result, a construction fault in its place (R13, R106, log 5). -/
  | raised (f : ConstructionFault)
  /-- What a host read of a retrieved packet gave (R127). -/
  | field (v : FieldValue)
  deriving DecidableEq, Repr

/-- The machine's state. The decoder's fields and the epoch are the spec's state (R15, R33). The
configuration is R7's: a parameter of the step, carried here because the type of the step is fixed, and written by no
step (log 4). The last two fields are the model's own: the host's actions and the result it was given (logs 1, 2). -/
structure State where
  cfg : Config
  dec : Decoder
  epoch : Nat
  /-- The host's actions, oldest first. No operation reads or writes them (R34). -/
  pending : List HostAction
  /-- The result of the last action. No operation reads it (R28). -/
  response : Option Response
  deriving DecidableEq, Repr

/-- Why the machine stops with a fault. -/
inductive Fault where
  /-- Raised by a host read of a retrieved packet whose tag is not the current epoch (R127, D15). Safe: the
  real block may still hold the packet. -/
  | stalePacket
  deriving DecidableEq, Repr

/-- Why an action has no meaning. -/
inductive Refusal where
  /-- Raised by an arm of `exec` whose instruction has no meaning yet. Safe. No arm raises it now. -/
  | notModelled (mnemonic : String)
  /-- Raised by a reserved command code (R62, U10, D31). Safe. -/
  | reservedCommand (code : Byte)
  /-- Raised by operands that are not of the command's format (U13, D19, log 12). Safe. -/
  | malformedOperands (code : Byte)
  /-- Raised by two overlapping operations on the block (R47, R121, D14, log 7). Safe. -/
  | overlappingOperations
  deriving DecidableEq, Repr

/-- The decoder's fields at creation and after a full reset (R123, D11). -/
def Decoder.reset : Decoder where
  phase := .awaitingMarker
  markerBuf := []
  typeBuf := []
  countBuf := []
  sizeBuf := []
  payloadBuf := []
  expectedPayloadSize := 0
  headerComplete := false

/-- The state at creation for a configuration fixed beforehand (R124, R126): the decoder's reset values, epoch 0,
nothing issued and nothing returned (logs 1, 2). -/
def State.creation (cfg : Config) : State where
  cfg := cfg
  dec := Decoder.reset
  epoch := 0
  pending := []
  response := none

/-- The state at creation at the default configuration (R4, R5, R124). -/
def State.reset : State := State.creation {}

end Sys2Proof.Machine
end

