-- ==== Sys2Proof/Machine/Operands.lean ====
section
/-! DEFINITION. Operand and field arithmetic: bytes of words, words of bytes, masking, the byte range check. -/

namespace Sys2Proof.Machine

/-- `hi8(v) = v[15:8]` (R9). -/
def hi8 (v : Word) : Byte := v.extractLsb' 8 8

/-- `lo8(v) = v[7:0]` (R9). -/
def lo8 (v : Word) : Byte := v.extractLsb' 0 8

/-- `be16(b0, b1) = b0 * 256 + b1` (R9): `b0` is first on the wire (R38). -/
def be16 (b0 b1 : Byte) : Word := BitVec.ofNat 16 (b0.toNat * 256 + b1.toNat)

/-- A word's two bytes in wire order (R38, R55). -/
def wireBytes (v : Word) : List Byte := [hi8 v, lo8 v]

/-- The marker's two bytes, `[SOP_HI, SOP_LO]` (R4, R38). -/
def sopBytes (cfg : Config) : List Byte := wireBytes cfg.sop

/-- `mask16(v) = v mod 65536`, the Euclidean remainder (R11, D16). -/
def mask16 (v : Int) : Word := BitVec.ofNat 16 (v % 65536).toNat

/-- The byte an integer operand stands for; `none` outside 0..255 (R65, R85). -/
def byteOf (v : Int) : Option Byte :=
  if v < 0 ∨ 255 < v then none else some (BitVec.ofNat 8 v.toNat)

/-- The value of a filled 2-byte field buffer (R55); `none` at any other fill. -/
def wordOf : List Byte → Option Word
  | [b0, b1] => some (be16 b0 b1)
  | _ => none

/-- The contents of one of the decoder's field buffers (R35). -/
def fieldContents (d : Decoder) : FieldBuffer → List Byte
  | .marker => d.markerBuf
  | .type => d.typeBuf
  | .count => d.countBuf
  | .size => d.sizeBuf

/-- Byte `i` of a field buffer. Beyond the fill count it is a free value (U12, log 10). -/
def fieldByte (s : State) (f : FieldBuffer) (i : Nat) : Byte :=
  (fieldContents s.dec f).getD i (Config.storageBeyondFill s.epoch f i)

/-- The value of a field buffer, `be16(buf[0], buf[1])` (R55, R94). -/
def fieldWord (s : State) (f : FieldBuffer) : Word :=
  be16 (fieldByte s f 0) (fieldByte s f 1)

/-- `len(payload) > MAX_PAYLOAD`, the one bound of the block (R5, R72, R79). -/
def exceedsCap (cfg : Config) (n : Nat) : Bool := decide (cfg.maxPayload.val < n)

end Sys2Proof.Machine
end

