-- ==== Sys2Proof/Machine/Flags.lean ====
section
/-! DEFINITION. The block's one flag, `header_complete` (R23, R28), and the port codes of statuses and
phases (R63, R64). -/

namespace Sys2Proof.Machine

/-- The header passed its validation: latch the size and set the flag (R22, R23, R90). -/
def Decoder.latchHeader (n : Word) (d : Decoder) : Decoder :=
  { d with expectedPayloadSize := n, headerComplete := true }

/-- The 3-bit code of a status at a port (R63, D3). -/
def Status.code : Status → BitVec 3
  | .success => 0
  | .inProgress => 1
  | .errorInvalidMarker => 2
  | .errorPayloadTooLarge => 3
  | .errorOverflow => 4
  | .errorNullOrInvalidParam => 5

/-- The status of a 3-bit code; 6 and 7 are not statuses (R63, U11). -/
def Status.ofCode (c : BitVec 3) : Option Status :=
  match c.toNat with
  | 0 => some .success
  | 1 => some .inProgress
  | 2 => some .errorInvalidMarker
  | 3 => some .errorPayloadTooLarge
  | 4 => some .errorOverflow
  | 5 => some .errorNullOrInvalidParam
  | _ => none

/-- The 3-bit code of a phase (R64, D4). -/
def Phase.code : Phase → BitVec 3
  | .awaitingMarker => 0
  | .awaitingType => 1
  | .awaitingCount => 2
  | .awaitingSize => 3
  | .awaitingPayload => 4
  | .complete => 5

/-- The phase of a 3-bit code; 6 and 7 are not phases (R64, U11). -/
def Phase.ofCode (c : BitVec 3) : Option Phase :=
  match c.toNat with
  | 0 => some .awaitingMarker
  | 1 => some .awaitingType
  | 2 => some .awaitingCount
  | 3 => some .awaitingSize
  | 4 => some .awaitingPayload
  | 5 => some .complete
  | _ => none

end Sys2Proof.Machine
end

