-- ==== Sys2Proof/Machine/Ops.lean ====
section
/-! DEFINITION. The named operations over the state: full reset, framing faults, construction faults, results.
These are what the block has in place of traps: it saves nothing, changes no mode and has no return (R113, R114). -/

namespace Sys2Proof.Machine

/-- `FullReset()` (R83): every field of R15 to its reset value, whatever it was. -/
def Decoder.fullReset (d : Decoder) : Decoder :=
  { d with
    phase := .awaitingMarker
    markerBuf := []
    typeBuf := []
    countBuf := []
    sizeBuf := []
    payloadBuf := []
    expectedPayloadSize := 0
    headerComplete := false }

/-- A framing fault: "an unconditional full reset (never partial)", and the status returned (R105, R113). -/
def framingFault (st : Status) (d : Decoder) : Decoder × Status := (d.fullReset, st)

/-- The decoder takes new fields and the epoch counts once (R33): RESET, and each in-range byte. -/
def State.commit (s : State) (d : Decoder) : State :=
  { s with dec := d, epoch := s.epoch + 1 }

/-- The state with a result for the host (log 2). -/
def State.respond (s : State) (r : Response) : State :=
  { s with response := some r }

/-- The state without the action the host has just performed (log 1). -/
def State.withPending (s : State) (rest : List HostAction) : State :=
  { s with pending := rest }

/-- An operation ends with a result (R12 `return`). -/
def finish (r : Response) (s : State) : Host.Outcome State Fault Refusal :=
  .next (s.respond r)

/-- `raise`: the operation ends with a construction fault. Nothing of the block changes, and the block goes on
(R106, R122): the host gets the fault in place of a result (log 5). -/
def raiseFault (f : ConstructionFault) (s : State) : Host.Outcome State Fault Refusal :=
  finish (.raised f) s

/-- An operation that either raises or returns a value (R66). -/
def deliver {α : Type} (toResponse : α → Response) (x : Except ConstructionFault α) (s : State) :
    Host.Outcome State Fault Refusal :=
  match x with
  | .ok a => finish (toResponse a) s
  | .error f => raiseFault f s

/-- The payload check: PayloadTooLarge, with the length, above the cap (R72, R75, R79). -/
def checkPayload (cfg : Config) (pl : List Byte) : Except ConstructionFault (List Byte) :=
  if exceedsCap cfg pl.length then .error (.payloadTooLarge pl.length) else .ok pl

end Sys2Proof.Machine
end

