-- ==== Sys2Proof/Machine/Decoder.lean ====
section
/-! DEFINITION. The decoder of 42_decoder.md: the phase arms, and RESET, DECODE_BYTE, DECODE_BUFFER, GET_PACKET. -/

namespace Sys2Proof.Machine

/-- AwaitingMarker: the marker validator and the frame synchronizer (R87). -/
def markerArm (cfg : Config) (b : Byte) (d : Decoder) : Decoder × Status :=
  let buf := d.markerBuf ++ [b]
  if buf.length < 2 then ({ d with markerBuf := buf }, .inProgress)
  else if buf = sopBytes cfg then ({ d with markerBuf := buf, phase := .awaitingType }, .inProgress)
  else framingFault .errorInvalidMarker d

/-- AwaitingType (R88). -/
def typeArm (b : Byte) (d : Decoder) : Decoder × Status :=
  let buf := d.typeBuf ++ [b]
  if buf.length = 2 then ({ d with typeBuf := buf, phase := .awaitingCount }, .inProgress)
  else ({ d with typeBuf := buf }, .inProgress)

/-- AwaitingCount (R89). -/
def countArm (b : Byte) (d : Decoder) : Decoder × Status :=
  let buf := d.countBuf ++ [b]
  if buf.length = 2 then ({ d with countBuf := buf, phase := .awaitingSize }, .inProgress)
  else ({ d with countBuf := buf }, .inProgress)

/-- The size validator (R90): the size field is complete and its value is `n`. -/
def validateSize (cfg : Config) (n : Word) (d : Decoder) : Decoder × Status :=
  if exceedsCap cfg n.toNat then framingFault .errorPayloadTooLarge d
  else if n = 0 then ({ d.latchHeader n with phase := .complete }, .success)
  else ({ d.latchHeader n with phase := .awaitingPayload }, .inProgress)

/-- AwaitingSize (R90). -/
def sizeArm (cfg : Config) (b : Byte) (d : Decoder) : Decoder × Status :=
  let buf := d.sizeBuf ++ [b]
  match buf with
  | b0 :: b1 :: _ => validateSize cfg (be16 b0 b1) { d with sizeBuf := buf }
  | _ => ({ d with sizeBuf := buf }, .inProgress)

/-- AwaitingPayload: the payload accumulator (R91). -/
def payloadArm (b : Byte) (d : Decoder) : Decoder × Status :=
  let buf := d.payloadBuf ++ [b]
  if buf.length = d.expectedPayloadSize.toNat then ({ d with payloadBuf := buf, phase := .complete }, .success)
  else ({ d with payloadBuf := buf }, .inProgress)

/-- A byte in range: the phase's arm (R85 Dispatch). In Complete the byte belongs to the next frame: a full reset,
then one dispatch in AwaitingMarker, never more (R86). -/
def dispatchByte (cfg : Config) (b : Byte) (d : Decoder) : Decoder × Status :=
  match d.phase with
  | .awaitingMarker => markerArm cfg b d
  | .awaitingType => typeArm b d
  | .awaitingCount => countArm b d
  | .awaitingSize => sizeArm cfg b d
  | .awaitingPayload => payloadArm b d
  | .complete => markerArm cfg b d.fullReset

/-- One DECODE_BYTE, without its result being delivered (R85): the range check first (R109), then the epoch
(R33), then the dispatch. -/
def consumeByte (v : Int) (s : State) : State × Status :=
  match byteOf v with
  | none => (s, .errorNullOrInvalidParam)
  | some b =>
    let r := dispatchByte s.cfg b s.dec
    (s.commit r.1, r.2)

/-- The loop of DECODE_BUFFER (R93) over the rest of the run, `i` the index of its first element: stop after the first
status that is not InProgress, or at the end. -/
def consumeRun : List Int → Nat → State → State × Status × Nat
  | [], i, s => (s, .inProgress, i)
  | v :: vs, i, s =>
    let r := consumeByte v s
    if r.2 = .inProgress then consumeRun vs (i + 1) r.1 else (r.1, r.2, i + 1)

/-- The packet GET_PACKET returns, tagged with the epoch (R94, R33): both conditions are checked. -/
def retrievedPacket (s : State) : Option Retrieved :=
  if s.dec.phase = .complete ∧ s.dec.headerComplete = true then
    some ⟨⟨fieldWord s .marker, fieldWord s .type, fieldWord s .count, s.dec.payloadBuf⟩, s.epoch⟩
  else none

/-- RESET (R84). -/
def execReset (s : State) : Host.Outcome State Fault Refusal :=
  finish .done (s.commit s.dec.fullReset)

/-- DECODE_BYTE (R85). -/
def execDecodeByte (v : Int) (s : State) : Host.Outcome State Fault Refusal :=
  let r := consumeByte v s
  finish (.status r.2) r.1

/-- DECODE_BUFFER (R93): a null buffer, an empty list and an offset at or past the end are all the empty input (D9). -/
def execDecodeBuffer (buf : Option (List Int)) (offset : Nat) (s : State) : Host.Outcome State Fault Refusal :=
  match buf with
  | none => finish (.statusIndex .errorNullOrInvalidParam offset) s
  | some xs =>
    if xs.length = 0 ∨ xs.length ≤ offset then finish (.statusIndex .errorNullOrInvalidParam offset) s
    else
      let r := consumeRun (xs.drop offset) offset s
      finish (.statusIndex r.2.1 r.2.2) r.1

/-- GET_PACKET (R94): no field changes (R95). -/
def execGetPacket (s : State) : Host.Outcome State Fault Refusal :=
  finish (.retrieved (retrievedPacket s)) s

end Sys2Proof.Machine
end

