-- ==== Sys2Proof/Machine/Packet.lean ====
section
/-! DEFINITION. The packet value operations of 40_packet.md: PKT_NEW, PKT_SET_TYPE, PKT_SET_COUNT,
PKT_SET_PAYLOAD, with size (R76), equality (R77) and the printable classification (R78). -/

namespace Sys2Proof.Machine

/-- `size(p) = len(p.payload)` (R76). -/
def packetSize (p : Packet) : Nat := p.payload.length

/-- Packet equality: type, count and payload (R77, D35). -/
def samePacket (p q : Packet) : Bool :=
  p.type == q.type && p.count == q.count && p.payload == q.payload

/-- Every byte in 0x20..0x7E (R78); true of the empty payload. -/
def printable (pl : List Byte) : Bool :=
  pl.all (fun b => decide (0x20 ≤ b.toNat ∧ b.toNat ≤ 0x7E))

/-- The host-side diagnostic text (R78). It is outside the block and its exact text is open (log 16). -/
def diagnosticText (p : Packet) : String :=
  Config.formatText (printable p.payload) p

/-- The packet PKT_NEW builds, or its fault (R72). -/
def buildPacket (cfg : Config) (t c : Int) (pl : List Byte) : Except ConstructionFault Packet :=
  (checkPayload cfg pl).map (fun l => ⟨cfg.sop, mask16 t, mask16 c, l⟩)

/-- `p` with another payload, or the fault (R75). -/
def replacePayload (cfg : Config) (p : Packet) (pl : List Byte) : Except ConstructionFault Packet :=
  (checkPayload cfg pl).map (fun l => { p with payload := l })

/-- PKT_NEW (R72). -/
def execPktNew (t c : Int) (pl : List Byte) (s : State) : Host.Outcome State Fault Refusal :=
  deliver .packet (buildPacket s.cfg t c pl) s

/-- PKT_SET_TYPE (R73): a new record, the old one unchanged (D36). -/
def execPktSetType (p : Packet) (v : Int) (s : State) : Host.Outcome State Fault Refusal :=
  finish (.packet { p with type := mask16 v }) s

/-- PKT_SET_COUNT (R74). -/
def execPktSetCount (p : Packet) (v : Int) (s : State) : Host.Outcome State Fault Refusal :=
  finish (.packet { p with count := mask16 v }) s

/-- PKT_SET_PAYLOAD (R75). -/
def execPktSetPayload (p : Packet) (pl : List Byte) (s : State) : Host.Outcome State Fault Refusal :=
  deliver .packet (replacePayload s.cfg p pl) s

end Sys2Proof.Machine
end

