-- ==== Sys2Proof/Machine/Encoder.lean ====
section
/-! DEFINITION. The encoder of 41_encoder.md: ENCODE and ENCODE_RAW. -/

namespace Sys2Proof.Machine

/-- The 8-byte header: marker, type, count and size, each big-endian (R53, R79). The marker is `SOP`,
"whatever `p.marker` holds". -/
def frameHeader (cfg : Config) (p : Packet) : List Byte :=
  sopBytes cfg ++ wireBytes p.type ++ wireBytes p.count ++ wireBytes (BitVec.ofNat 16 (packetSize p))

/-- The frame of a packet, or PayloadTooLarge (R79). -/
def encodeFrame (cfg : Config) (p : Packet) : Except ConstructionFault (List Byte) :=
  (checkPayload cfg p.payload).map (fun pl => frameHeader cfg p ++ pl)

/-- ENCODE (R79). -/
def execEncode (p : Packet) (s : State) : Host.Outcome State Fault Refusal :=
  deliver .frame (encodeFrame s.cfg p) s

/-- ENCODE_RAW: PKT_NEW, then ENCODE of its packet (R68, R80). -/
def execEncodeRaw (t c : Int) (pl : List Byte) (s : State) : Host.Outcome State Fault Refusal :=
  deliver .frame ((buildPacket s.cfg t c pl).bind (encodeFrame s.cfg)) s

end Sys2Proof.Machine
end

