-- ==== Sys2Proof/Machine/Dispatch.lean ====
section
/-! DEFINITION. One arm per instruction: each calls its meaning. -/

namespace Sys2Proof.Machine

/-- What an instruction does. -/
def exec (i : Instr) (s : State) : Host.Outcome State Fault Refusal :=
  match i with
  | .reset => Sys2Proof.Machine.execReset s
  | .decodeByte v => Sys2Proof.Machine.execDecodeByte v s
  | .decodeBuffer buf offset => Sys2Proof.Machine.execDecodeBuffer buf offset s
  | .getPacket => Sys2Proof.Machine.execGetPacket s
  | .encode p => Sys2Proof.Machine.execEncode p s
  | .encodeRaw t c pl => Sys2Proof.Machine.execEncodeRaw t c pl s
  | .pktNew t c pl => Sys2Proof.Machine.execPktNew t c pl s
  | .pktSetType p v => Sys2Proof.Machine.execPktSetType p v s
  | .pktSetCount p v => Sys2Proof.Machine.execPktSetCount p v s
  | .pktSetPayload p pl => Sys2Proof.Machine.execPktSetPayload p pl s

end Sys2Proof.Machine
end

