-- ==== Sys2Proof/Machine/HostPort.lean ====
section
/-! DEFINITION. What one action of the host does (R132): a command, a read of a retrieved packet, an overlap. -/

namespace Sys2Proof.Machine

/-- The refusal of a command that decodes to no instruction (R62, U13). -/
def refusalOf : DecodeReject → Refusal
  | .reservedCode code => .reservedCommand code
  | .malformedOperands code => .malformedOperands code

/-- A command is decoded and its instruction executed (R59 to R62). -/
def runCommand (c : Command) (s : State) : Host.Outcome State Fault Refusal :=
  match decode c with
  | .ok i => exec i s
  | .error e => .refused (refusalOf e)

/-- A part of a packet record, as a host read gives it (R127). -/
def packetField (p : Packet) : PacketField → FieldValue
  | .marker => .word p.marker
  | .type => .word p.type
  | .count => .word p.count
  | .payload => .bytes p.payload

/-- A host read of a retrieved packet: the snapshot's value while the epoch is the packet's tag, StalePacket
after (R127, D15). -/
def readRetrieved (q : Retrieved) (f : PacketField) (s : State) : Host.Outcome State Fault Refusal :=
  if q.tag = s.epoch then finish (.field (packetField q.packet f)) s else .fault .stalePacket

/-- One action of the host (R132). -/
def runAction (a : HostAction) (s : State) : Host.Outcome State Fault Refusal :=
  match a with
  | .issue c => runCommand c s
  | .readPacket q f => readRetrieved q f s
  | .overlap _ _ => .refused .overlappingOperations

end Sys2Proof.Machine
end

