-- ==== Sys2Proof/Machine/Step.lean ====
section
/-! DEFINITION. The step: the host's oldest action, or nothing at all; and how the host places an instruction. -/

namespace Sys2Proof.Machine

/-- One step (R13). The block has no step of its own: while the host issues nothing, it "holds its state
unchanged" (R96, R120, log 3). -/
def step (s : State) : Host.Outcome State Fault Refusal :=
  match s.pending with
  | [] => .next s
  | a :: rest => runAction a (s.withPending rest)

/-- The host issues the opcode-table word `w`, as the next action (logs 1, 13). -/
def State.withFetchWord (s : State) (nbits w : Nat) : State :=
  s.withPending (.issue (Command.ofTableWord nbits w) :: s.pending)

end Sys2Proof.Machine
end

