-- ==== Sys2Proof/Safety.lean ====
section
/-! DEFINITION. The terms claims are stated in: the reachable-state invariant (R25), frame boundaries (R82), legal
frames (R56), and feeding bytes one at a time. -/

namespace Sys2Proof.Machine

/-- The row of R25's table for the decoder's phase. -/
def Decoder.rowHolds (cfg : Config) (d : Decoder) : Bool :=
  match d.phase with
  | .awaitingMarker =>
    decide (d.markerBuf.length ≤ 1 ∧ d.typeBuf = [] ∧ d.countBuf = [] ∧ d.sizeBuf = [] ∧ d.payloadBuf = [] ∧
      d.expectedPayloadSize = 0 ∧ d.headerComplete = false)
  | .awaitingType =>
    decide (d.markerBuf = sopBytes cfg ∧ d.typeBuf.length ≤ 1 ∧ d.countBuf = [] ∧ d.sizeBuf = [] ∧
      d.payloadBuf = [] ∧ d.expectedPayloadSize = 0 ∧ d.headerComplete = false)
  | .awaitingCount =>
    decide (d.markerBuf = sopBytes cfg ∧ d.typeBuf.length = 2 ∧ d.countBuf.length ≤ 1 ∧ d.sizeBuf = [] ∧
      d.payloadBuf = [] ∧ d.expectedPayloadSize = 0 ∧ d.headerComplete = false)
  | .awaitingSize =>
    decide (d.markerBuf = sopBytes cfg ∧ d.typeBuf.length = 2 ∧ d.countBuf.length = 2 ∧ d.sizeBuf.length ≤ 1 ∧
      d.payloadBuf = [] ∧ d.expectedPayloadSize = 0 ∧ d.headerComplete = false)
  | .awaitingPayload =>
    decide (d.markerBuf = sopBytes cfg ∧ d.typeBuf.length = 2 ∧ d.countBuf.length = 2 ∧
      wordOf d.sizeBuf = some d.expectedPayloadSize ∧ d.payloadBuf.length < d.expectedPayloadSize.toNat ∧
      1 ≤ d.expectedPayloadSize.toNat ∧ d.expectedPayloadSize.toNat ≤ cfg.maxPayload.val ∧ d.headerComplete = true)
  | .complete =>
    decide (d.markerBuf = sopBytes cfg ∧ d.typeBuf.length = 2 ∧ d.countBuf.length = 2 ∧
      wordOf d.sizeBuf = some d.expectedPayloadSize ∧ d.payloadBuf.length = d.expectedPayloadSize.toNat ∧
      d.expectedPayloadSize.toNat ≤ cfg.maxPayload.val ∧ d.headerComplete = true)

/-- The reachable-state invariant (R25). -/
abbrev State.Inv (s : State) : Prop := s.dec.rowHolds s.cfg = true

/-- The decoder is at a frame boundary (R82): no byte of a frame has been taken, or the last frame is complete. -/
abbrev State.AtFrameBoundary (s : State) : Prop :=
  (s.dec.phase = .awaitingMarker ∧ s.dec.markerBuf = []) ∨ s.dec.phase = .complete

/-- A legal frame (R56): the marker, any type and count, a size of at most `MAX_PAYLOAD`, and exactly that many
payload bytes. -/
def legalFrame (cfg : Config) : List Byte → Bool
  | m1 :: m0 :: _ :: _ :: _ :: _ :: z1 :: z0 :: pl =>
    decide ([m1, m0] = sopBytes cfg ∧ (be16 z1 z0).toNat ≤ cfg.maxPayload.val ∧ pl.length = (be16 z1 z0).toNat)
  | _ => false

/-- The packet a legal frame carries (R53, R55). -/
def framePacket : List Byte → Option Packet
  | m1 :: m0 :: t1 :: t0 :: c1 :: c0 :: _ :: _ :: pl => some ⟨be16 m1 m0, be16 t1 t0, be16 c1 c0, pl⟩
  | _ => none

/-- DECODE_BYTE on each byte in order: the statuses returned and the state after; `none` if one of them returns no
status. -/
def feed : List Byte → State → Option (List Status × State)
  | [], s => some ([], s)
  | b :: bs, s =>
    match exec (.decodeByte b.toNat) s with
    | .next t =>
      match t.response with
      | some (.status st) => (feed bs t).map (fun r => (st :: r.1, r.2))
      | _ => none
    | _ => none

/-- The packet record an instruction takes, if it takes one (R59). -/
def packetOperand : Instr → Option Packet
  | .encode p => some p
  | .pktSetType p _ => some p
  | .pktSetCount p _ => some p
  | .pktSetPayload p _ => some p
  | .reset => none
  | .decodeByte _ => none
  | .decodeBuffer _ _ => none
  | .getPacket => none
  | .encodeRaw _ _ _ => none
  | .pktNew _ _ _ => none

/-- How many elements of a run are in 0..255, each of which counts the epoch once (R33). -/
def inRangeCount (l : List Int) : Nat := (l.filter (fun v => decide (0 ≤ v ∧ v ≤ 255))).length

/-- The integers a byte list stands for as a host buffer (R65). -/
def bufferOf (l : List Byte) : List Int := l.map (fun b => (b.toNat : Int))

end Sys2Proof.Machine
end

