-- ==== Sys2Proof/Certificates/Slice0/Obligations.lean ====
section
/-! DEFINITION. The statements for the provers. Each is about every state and every configuration, unless it
says otherwise. An operation "returns r" where the next state's `response` is `some r` (log 2), and "raises" where it is
`some (.raised f)` (log 5); `b.toNat` as DECODE_BYTE's operand is any in-range operand. -/

open Sys2Proof Sys2Proof.Machine

/-! ## Field arithmetic -/

/-- R9, its last equation the spec's own inference: `be16(b0, b1) = b0 * 256 + b1`, `hi8` and `lo8` are the two halves, and `be16(hi8(v), lo8(v)) = v`. -/
def Obligations.BigEndianAssemblyAndSplit : Prop :=
  (∀ b0 b1 : Byte, (be16 b0 b1).toNat = b0.toNat * 256 + b1.toNat) ∧
  (∀ v : Word, (hi8 v).toNat = v.toNat / 256 ∧ (lo8 v).toNat = v.toNat % 256 ∧ be16 (hi8 v) (lo8 v) = v)

/-- R11 with its decision D16 for negative `v`: `mask16(v) = v mod 65536` (Euclidean), which is the low 16 bits of the two's
complement value. -/
def Obligations.MaskIsEuclideanRemainder : Prop :=
  ∀ v : Int, ((mask16 v).toNat : Int) = v % 65536 ∧ mask16 v = BitVec.ofInt 16 v

/-- R77 (decision D35): packets are equal when type, count and payload are. -/
def Obligations.PacketEqualityIgnoresMarker : Prop :=
  ∀ p q : Packet, samePacket p q = true ↔ (p.type = q.type ∧ p.count = q.count ∧ p.payload = q.payload)

/-- R78's predicate (host side, decision D23): every byte in 0x20..0x7E, and true of the empty payload. -/
def Obligations.PrintableClassification : Prop :=
  (∀ pl : List Byte, printable pl = true ↔ ∀ b ∈ pl, 0x20 ≤ b.toNat ∧ b.toNat ≤ 0x7E) ∧ printable [] = true

/-- R63, R64 (decisions D3, D4): the codes of statuses and phases are 0 to 5 in the source's order; 6 and 7 are none. -/
def Obligations.StatusAndPhaseCodes : Prop :=
  ([Status.success, .inProgress, .errorInvalidMarker, .errorPayloadTooLarge, .errorOverflow,
      .errorNullOrInvalidParam].map Status.code = [0, 1, 2, 3, 4, 5]) ∧
  ([Phase.awaitingMarker, .awaitingType, .awaitingCount, .awaitingSize, .awaitingPayload, .complete].map Phase.code
    = [0, 1, 2, 3, 4, 5]) ∧
  (∀ c st, Status.ofCode c = some st ↔ c = st.code) ∧
  (∀ c ph, Phase.ofCode c = some ph ↔ c = ph.code)

/-! ## The operation interface -/

/-- R61 (decision D2): the command code of each operation, with operands of its format. -/
def Obligations.CommandCodesAsAssigned : Prop :=
  ∀ (v t c : Int) (buf : Option (List Int)) (offset : Nat) (p : Packet) (pl : List Byte),
    decode ⟨0b00000000, .f0⟩ = .ok .reset ∧
    decode ⟨0b00000001, .fb v⟩ = .ok (.decodeByte v) ∧
    decode ⟨0b00000010, .fbuf buf offset⟩ = .ok (.decodeBuffer buf offset) ∧
    decode ⟨0b00000011, .f0⟩ = .ok .getPacket ∧
    decode ⟨0b00000100, .fp p⟩ = .ok (.encode p) ∧
    decode ⟨0b00000101, .ftcp t c pl⟩ = .ok (.encodeRaw t c pl) ∧
    decode ⟨0b00000110, .ftcp t c pl⟩ = .ok (.pktNew t c pl) ∧
    decode ⟨0b00000111, .fpv p v⟩ = .ok (.pktSetType p v) ∧
    decode ⟨0b00001000, .fpv p v⟩ = .ok (.pktSetCount p v) ∧
    decode ⟨0b00001001, .fpl p pl⟩ = .ok (.pktSetPayload p pl)

/-- A command decodes to an instruction exactly when it is that instruction's own command: every operand at every value
survives, and no other code or operand format decodes to it (the operand format check is log 12's). -/
def Obligations.DecodeAgreesWithEncode : Prop :=
  ∀ (c : Command) (i : Instr), decode c = .ok i ↔ c = encode i

/-- R62 (decision D31): a code above 9, which is one in 0x0A..0x0F or with `cmd[7:4]` not 0, is refused with whatever operands, and the
refusal stays for the whole run. -/
def Obligations.ReservedCodesRefusedForTheRun : Prop :=
  ∀ (c : Command), (c.rsv ≠ 0 ∨ 0xA ≤ c.op.toNat) →
    decode c = .error (.reservedCode c.code) ∧
    ∀ (s : State) (rest : List HostAction) (k : Nat), s.pending = .issue c :: rest →
      step s = .refused (.reservedCommand c.code) ∧
      Host.Core.run core (k + 1) s = .refused (Refusal.reservedCommand c.code)

/-- A step performs the host's oldest action: a command that decodes is executed in the state without that action. The
step adds nothing else (log 1). Well-formedness of the instruction is not needed (log 11). -/
def Obligations.StepRunsTheDecodedInstruction : Prop :=
  ∀ (s : State) (c : Command) (i : Instr) (rest : List HostAction),
    s.pending = .issue c :: rest → decode c = .ok i → step s = exec i { s with pending := rest }

/-- R96, R120: while the host issues nothing, no step changes anything (the idle step's form is log 3's). -/
def Obligations.IdleBlockHoldsItsState : Prop :=
  ∀ (s : State) (k : Nat), s.pending = [] → Host.Core.run core k s = .next s

/-- R47, R121 (decision D14): overlapping operations are refused, whatever they are, for the whole run (the action is log 7's). -/
def Obligations.OverlappingOperationsRefused : Prop :=
  ∀ (s : State) (c d : Command) (rest : List HostAction) (k : Nat), s.pending = .overlap c d :: rest →
    Host.Core.run core (k + 1) s = .refused Refusal.overlappingOperations

/-- R116, R122: every operation, in every state, is carried out and returns or raises something. -/
def Obligations.EveryOperationAnswersInEveryState : Prop :=
  ∀ (i : Instr) (s : State), ∃ t r, exec i s = .next t ∧ t.response = some r

/-- R7: no operation and no step changes the configuration, and an operation does not touch the host's actions
(both are carried in State: logs 1 and 4). -/
def Obligations.ConfigurationNeverChanges : Prop :=
  (∀ (i : Instr) (s t : State), exec i s = .next t → t.cfg = s.cfg ∧ t.pending = s.pending) ∧
  (∀ s t : State, step s = .next t → t.cfg = s.cfg ∧ t.pending = s.pending.tail)

/-! ## Reset -/

/-- R123, R124 (decision D11): the creation state of every configuration, and the defaults of R4 and R5 at State.reset. -/
def Obligations.CreationStateValues : Prop :=
  (∀ cfg : Config, (State.creation cfg).cfg = cfg ∧ (State.creation cfg).epoch = 0 ∧
    (State.creation cfg).dec = { phase := .awaitingMarker, markerBuf := [], typeBuf := [], countBuf := [], sizeBuf := [],
                                 payloadBuf := [], expectedPayloadSize := 0, headerComplete := false }) ∧
  State.reset = State.creation { sop := 0xB0B2, maxPayload := 1024 }

/-- R84 (decisions D11, D15): RESET gives every decoder field its reset value and counts the epoch, in every state; then GET_PACKET returns
none, and a packet retrieved before is stale. Nothing else changes. -/
def Obligations.ResetOperation : Prop :=
  decode ⟨0x00, .f0⟩ = .ok .reset ∧
  ∀ s : State, ∃ t, exec .reset s = .next t ∧
    t.dec = { phase := .awaitingMarker, markerBuf := [], typeBuf := [], countBuf := [], sizeBuf := [],
              payloadBuf := [], expectedPayloadSize := 0, headerComplete := false } ∧
    t.epoch = s.epoch + 1 ∧ t.response = some .done ∧ t.cfg = s.cfg ∧ t.pending = s.pending ∧
    (∃ u, exec .getPacket t = .next u ∧ u.response = some (.retrieved none)) ∧
    (∀ (q : Retrieved) (f : PacketField), q.tag ≤ s.epoch → readRetrieved q f t = .fault .stalePacket)

/-- R99 (the spec's inference from R83 and R84): whatever the state before, RESET leaves the fields of the creation state, a second RESET changes none of them,
and a framing fault's reset leaves the same. -/
def Obligations.ResetIdempotence : Prop :=
  (∀ s : State, ∃ t, exec .reset s = .next t ∧ t.dec = State.reset.dec ∧
    ∃ u, exec .reset t = .next u ∧ u.dec = t.dec) ∧
  (∀ (s t : State) (v : Int), exec (.decodeByte v) s = .next t →
    (t.response = some (.status .errorInvalidMarker) ∨ t.response = some (.status .errorPayloadTooLarge)) →
    t.dec = State.reset.dec)

/-! ## DECODE_BYTE -/

/-- R85, R109: an operand outside 0..255 returns ErrorNullOrInvalidParam in every phase and changes nothing. -/
def Obligations.OutOfRangeByteChangesNothing : Prop :=
  ∀ (s : State) (v : Int), (v < 0 ∨ 255 < v) →
    exec (.decodeByte v) s = .next { s with response := some (.status .errorNullOrInvalidParam) }

/-- R86: in Complete, an in-range byte is the first byte of the next frame: a full reset, one dispatch, InProgress. The
complete packet is lost, and a retrieved one is stale. -/
def Obligations.CompleteArmStartsNextFrame : Prop :=
  ∀ (s : State) (b : Byte), s.dec.phase = .complete → ∃ t, exec (.decodeByte b.toNat) s = .next t ∧
    t.response = some (.status .inProgress) ∧
    t.dec = { phase := .awaitingMarker, markerBuf := [b], typeBuf := [], countBuf := [], sizeBuf := [],
              payloadBuf := [], expectedPayloadSize := 0, headerComplete := false } ∧
    t.epoch = s.epoch + 1 ∧ t.cfg = s.cfg ∧ t.pending = s.pending ∧
    (∃ u, exec .getPacket t = .next u ∧ u.response = some (.retrieved none)) ∧
    (∀ (q : Retrieved) (f : PacketField), q.tag ≤ s.epoch → readRetrieved q f t = .fault .stalePacket)

/-- R87: the marker arm. The first byte waits; the second completes the pair, which is SOP, in order, or a full reset
with ErrorInvalidMarker. -/
def Obligations.MarkerArm : Prop :=
  ∀ (s : State) (b : Byte), s.dec.phase = .awaitingMarker → ∃ t, exec (.decodeByte b.toNat) s = .next t ∧
    t.epoch = s.epoch + 1 ∧ t.cfg = s.cfg ∧ t.pending = s.pending ∧
    (if s.dec.markerBuf.length + 1 < 2 then
      t.response = some (.status .inProgress) ∧ t.dec = { s.dec with markerBuf := s.dec.markerBuf ++ [b] }
    else if s.dec.markerBuf ++ [b] = [hi8 s.cfg.sop, lo8 s.cfg.sop] then
      t.response = some (.status .inProgress) ∧
        t.dec = { s.dec with markerBuf := s.dec.markerBuf ++ [b], phase := .awaitingType }
    else
      t.response = some (.status .errorInvalidMarker) ∧ t.dec = State.reset.dec)

/-- R88, R89: the type and count arms accept every byte and move on at the second. -/
def Obligations.TypeAndCountArms : Prop :=
  (∀ (s : State) (b : Byte), s.dec.phase = .awaitingType → ∃ t, exec (.decodeByte b.toNat) s = .next t ∧
    t.epoch = s.epoch + 1 ∧ t.cfg = s.cfg ∧ t.pending = s.pending ∧ t.response = some (.status .inProgress) ∧
    t.dec = { s.dec with typeBuf := s.dec.typeBuf ++ [b],
                         phase := if s.dec.typeBuf.length + 1 = 2 then .awaitingCount else .awaitingType }) ∧
  (∀ (s : State) (b : Byte), s.dec.phase = .awaitingCount → ∃ t, exec (.decodeByte b.toNat) s = .next t ∧
    t.epoch = s.epoch + 1 ∧ t.cfg = s.cfg ∧ t.pending = s.pending ∧ t.response = some (.status .inProgress) ∧
    t.dec = { s.dec with countBuf := s.dec.countBuf ++ [b],
                         phase := if s.dec.countBuf.length + 1 = 2 then .awaitingSize else .awaitingCount })

/-- R90: the size arm. The first byte waits. The second gives `n = b0 * 256 + b1`: above MAX_PAYLOAD a full reset with
ErrorPayloadTooLarge; else the size is latched and the header complete, and the frame is complete when `n = 0`. -/
def Obligations.SizeArm : Prop :=
  ∀ (s : State) (b : Byte), s.dec.phase = .awaitingSize → ∃ t, exec (.decodeByte b.toNat) s = .next t ∧
    t.epoch = s.epoch + 1 ∧ t.cfg = s.cfg ∧ t.pending = s.pending ∧
    (s.dec.sizeBuf.length + 1 < 2 →
      t.response = some (.status .inProgress) ∧ t.dec = { s.dec with sizeBuf := s.dec.sizeBuf ++ [b] }) ∧
    (∀ (b0 b1 : Byte) (l : List Byte), s.dec.sizeBuf ++ [b] = b0 :: b1 :: l →
      if s.cfg.maxPayload.val < b0.toNat * 256 + b1.toNat then
        t.response = some (.status .errorPayloadTooLarge) ∧ t.dec = State.reset.dec
      else if b0.toNat * 256 + b1.toNat = 0 then
        t.response = some (.status .success) ∧
          t.dec = { s.dec with sizeBuf := s.dec.sizeBuf ++ [b], expectedPayloadSize := 0, headerComplete := true,
                               phase := .complete }
      else
        t.response = some (.status .inProgress) ∧ t.dec.expectedPayloadSize.toNat = b0.toNat * 256 + b1.toNat ∧
          t.dec = { s.dec with sizeBuf := s.dec.sizeBuf ++ [b], expectedPayloadSize := t.dec.expectedPayloadSize,
                               headerComplete := true, phase := .awaitingPayload })

/-- R91: the payload arm appends every byte, the marker's included, and completes the frame at the expected length. In
states R25 allows, the append stays within MAX_PAYLOAD. -/
def Obligations.PayloadArm : Prop :=
  ∀ (s : State) (b : Byte), s.dec.phase = .awaitingPayload → ∃ t, exec (.decodeByte b.toNat) s = .next t ∧
    t.epoch = s.epoch + 1 ∧ t.cfg = s.cfg ∧ t.pending = s.pending ∧
    (if s.dec.payloadBuf.length + 1 = s.dec.expectedPayloadSize.toNat then
      t.response = some (.status .success) ∧
        t.dec = { s.dec with payloadBuf := s.dec.payloadBuf ++ [b], phase := .complete }
    else
      t.response = some (.status .inProgress) ∧ t.dec = { s.dec with payloadBuf := s.dec.payloadBuf ++ [b] }) ∧
    (s.Inv → s.dec.payloadBuf.length < s.dec.expectedPayloadSize.toNat ∧
      t.dec.payloadBuf.length ≤ s.cfg.maxPayload.val)

/-- Frame of DECODE_BYTE on an in-range byte that neither resets nor arrives in Complete (R16, R22, R23): only the phase's
own buffer is written, the size latch and the flag only by AwaitingSize. -/
def Obligations.DecodeByteWritesOnlyThePhaseBuffer : Prop :=
  ∀ (s t : State) (b : Byte), s.dec.phase ≠ .complete → exec (.decodeByte b.toNat) s = .next t →
    (t.response = some (.status .inProgress) ∨ t.response = some (.status .success)) →
    t.epoch = s.epoch + 1 ∧ t.cfg = s.cfg ∧ t.pending = s.pending ∧
    (s.dec.phase ≠ .awaitingMarker → t.dec.markerBuf = s.dec.markerBuf) ∧
    (s.dec.phase ≠ .awaitingType → t.dec.typeBuf = s.dec.typeBuf) ∧
    (s.dec.phase ≠ .awaitingCount → t.dec.countBuf = s.dec.countBuf) ∧
    (s.dec.phase ≠ .awaitingSize → t.dec.sizeBuf = s.dec.sizeBuf ∧
      t.dec.expectedPayloadSize = s.dec.expectedPayloadSize ∧ t.dec.headerComplete = s.dec.headerComplete) ∧
    (s.dec.phase ≠ .awaitingPayload → t.dec.payloadBuf = s.dec.payloadBuf)

/-- R105: ErrorInvalidMarker and ErrorPayloadTooLarge come with a full reset, from DECODE_BYTE and from DECODE_BUFFER;
ErrorNullOrInvalidParam from DECODE_BYTE alters nothing; after a framing fault with reset, the next in-range byte is taken as
a first marker byte. -/
def Obligations.FramingFaultHandling : Prop :=
  (∀ (s t : State) (v : Int), exec (.decodeByte v) s = .next t →
    (t.response = some (.status .errorNullOrInvalidParam) → t.dec = s.dec ∧ t.epoch = s.epoch)) ∧
  (∀ (s t : State) (st : Status), (st = .errorInvalidMarker ∨ st = .errorPayloadTooLarge) →
    ((∃ v, exec (.decodeByte v) s = .next t ∧ t.response = some (.status st)) ∨
      (∃ buf offset k, exec (.decodeBuffer buf offset) s = .next t ∧ t.response = some (.statusIndex st k))) →
    t.dec = State.reset.dec ∧
    ∀ b : Byte, ∃ u, exec (.decodeByte b.toNat) t = .next u ∧ u.response = some (.status .inProgress) ∧
      u.dec = { State.reset.dec with markerBuf := [b] })

/-! ## DECODE_BUFFER -/

/-- R93, R110 (decisions D8, D9, D10): a null buffer, an empty list and an offset at or past the end consume nothing; else DECODE_BYTE on the element
at the offset, whose status ends the run or, InProgress, lets it go on at the next element until the end. -/
def Obligations.DecodeBufferRepeatsDecodeByte : Prop :=
  (∀ buf offset, decode ⟨0x02, .fbuf buf offset⟩ = .ok (.decodeBuffer buf offset)) ∧
  (∀ (s : State) (offset : Nat), exec (.decodeBuffer none offset) s =
    .next { s with response := some (.statusIndex .errorNullOrInvalidParam offset) }) ∧
  (∀ (s : State) (xs : List Int) (offset : Nat), (xs = [] ∨ xs.length ≤ offset) →
    exec (.decodeBuffer (some xs) offset) s =
      .next { s with response := some (.statusIndex .errorNullOrInvalidParam offset) }) ∧
  (∀ (s : State) (xs : List Int) (offset : Nat) (v : Int), xs[offset]? = some v →
    ∃ t st, exec (.decodeByte v) s = .next t ∧ t.response = some (.status st) ∧
      (st ≠ .inProgress → exec (.decodeBuffer (some xs) offset) s =
        .next { t with response := some (.statusIndex st (offset + 1)) }) ∧
      (st = .inProgress → offset + 1 = xs.length → exec (.decodeBuffer (some xs) offset) s =
        .next { t with response := some (.statusIndex .inProgress xs.length) }) ∧
      (st = .inProgress → offset + 1 < xs.length →
        exec (.decodeBuffer (some xs) offset) s = exec (.decodeBuffer (some xs) (offset + 1)) t))

/-- R52, R100: a run that consumes something returns an index past the offset and at most the length, equal to it when
the run is used up; and no element at or after the returned index is read: any other elements there give the same result and
state. -/
def Obligations.DecodeBufferReadsOnlyBeforeItsIndex : Prop :=
  ∀ (s : State) (xs : List Int) (offset : Nat), offset < xs.length →
    ∃ t st k, exec (.decodeBuffer (some xs) offset) s = .next t ∧ t.response = some (.statusIndex st k) ∧
      offset < k ∧ k ≤ xs.length ∧ (st = .inProgress → k = xs.length) ∧
      (st ≠ .inProgress → ∀ ys, exec (.decodeBuffer (some (xs.take k ++ ys)) offset) s = .next t)

/-! ## GET_PACKET, staleness -/

/-- R94 (decision D25): GET_PACKET returns the buffers' packet, tagged with the epoch, exactly when the phase is Complete and the flag is
set; in states R25 allows, the first condition is enough and the marker is SOP. No field changes. -/
def Obligations.GetPacketOperation : Prop :=
  decode ⟨0x03, .f0⟩ = .ok .getPacket ∧
  (∀ s : State, ¬ (s.dec.phase = .complete ∧ s.dec.headerComplete = true) →
    exec .getPacket s = .next { s with response := some (.retrieved none) }) ∧
  (∀ (s : State) (m1 m0 t1 t0 c1 c0 : Byte), s.dec.phase = .complete → s.dec.headerComplete = true →
    s.dec.markerBuf = [m1, m0] → s.dec.typeBuf = [t1, t0] → s.dec.countBuf = [c1, c0] →
    exec .getPacket s = .next { s with response := some (.retrieved (some
      { packet := { marker := be16 m1 m0, type := be16 t1 t0, count := be16 c1 c0, payload := s.dec.payloadBuf }
        tag := s.epoch })) }) ∧
  (∀ s : State, s.Inv → s.dec.phase = .complete → ∃ q, exec .getPacket s =
    .next { s with response := some (.retrieved (some q)) } ∧ q.packet.marker = s.cfg.sop ∧
      wordOf s.dec.typeBuf = some q.packet.type ∧ wordOf s.dec.countBuf = some q.packet.count ∧
      q.packet.payload = s.dec.payloadBuf ∧ q.tag = s.epoch)

/-- R95: retrieval has no side effect: a second GET_PACKET returns the same, and a DECODE_BYTE after it does what it would have
done without it. -/
def Obligations.RetrievalHasNoSideEffect : Prop :=
  ∀ s : State, ∃ t, exec .getPacket s = .next t ∧ t = { s with response := t.response } ∧
    (∃ u, exec .getPacket t = .next u ∧ u.response = t.response) ∧
    ∀ v : Int, exec (.decodeByte v) t = exec (.decodeByte v) s

/-- R33 (decision D15): how the epoch counts, the tag GET_PACKET gives, and that a read with another tag faults. -/
def Obligations.EpochCountsResetsAndConsumedBytes : Prop :=
  State.reset.epoch = 0 ∧
  (∀ s : State, ∃ t, exec .reset s = .next t ∧ t.epoch = s.epoch + 1) ∧
  (∀ (s : State) (v : Int), ∃ t, exec (.decodeByte v) s = .next t ∧ t.epoch = s.epoch + inRangeCount [v]) ∧
  (∀ (s : State) (buf : Option (List Int)) (offset : Nat), ∃ t st k,
    exec (.decodeBuffer buf offset) s = .next t ∧ t.response = some (.statusIndex st k) ∧
    t.epoch = s.epoch + inRangeCount (((buf.getD []).take k).drop offset)) ∧
  (∀ (s t : State) (q : Retrieved), exec .getPacket s = .next t → t.response = some (.retrieved (some q)) →
    q.tag = s.epoch) ∧
  (∀ (i : Instr) (s t : State), i.opcode ≠ .reset → i.opcode ≠ .decodeByte → i.opcode ≠ .decodeBuffer →
    exec i s = .next t → t.epoch = s.epoch) ∧
  (∀ (s : State) (q : Retrieved) (f : PacketField), q.tag ≠ s.epoch → readRetrieved q f s = .fault .stalePacket)

/-- R127 (decision D15; the read action is log 8's): a host read of a retrieved packet gives the snapshot's values while the epoch is its tag; after that any such read
faults with StalePacket, for the whole run. -/
def Obligations.StaleRetrievedPacketReadFaults : Prop :=
  (∀ (s : State) (q : Retrieved) (f : PacketField) (rest : List HostAction),
    s.pending = .readPacket q f :: rest → q.tag = s.epoch →
    step s = .next { s with pending := rest, response := some (.field (match f with
      | .marker => .word q.packet.marker
      | .type => .word q.packet.type
      | .count => .word q.packet.count
      | .payload => .bytes q.packet.payload)) }) ∧
  (∀ (s : State) (q : Retrieved) (f : PacketField) (rest : List HostAction) (k : Nat),
    s.pending = .readPacket q f :: rest → q.tag ≠ s.epoch →
    step s = .fault .stalePacket ∧ Host.Core.run core (k + 1) s = .fault Fault.stalePacket)

/-! ## Packet operations and the encoder -/

/-- R72 (decision D16 for negatives), where the payload fits: PKT_NEW returns the packet with masked type and count, and changes nothing. -/
def Obligations.PktNewBuildsThePacket : Prop :=
  ∀ (s : State) (t c : Int) (pl : List Byte), pl.length ≤ s.cfg.maxPayload.val →
    ∃ p : Packet, exec (.pktNew t c pl) s = .next { s with response := some (.packet p) } ∧
      p.marker = s.cfg.sop ∧ (p.type.toNat : Int) = t % 65536 ∧ (p.count.toNat : Int) = c % 65536 ∧ p.payload = pl

/-- R73, R74 (decisions D16 for negative `v`, D36): PKT_SET_TYPE and PKT_SET_COUNT return the packet with the one field masked and replaced, the others unchanged;
they never fail and change nothing. -/
def Obligations.PktSetTypeAndCount : Prop :=
  (∀ (p : Packet) (v : Int), decode ⟨0x07, .fpv p v⟩ = .ok (.pktSetType p v) ∧
    decode ⟨0x08, .fpv p v⟩ = .ok (.pktSetCount p v)) ∧
  (∀ (s : State) (p : Packet) (v : Int), ∃ q : Packet,
    exec (.pktSetType p v) s = .next { s with response := some (.packet q) } ∧
      (q.type.toNat : Int) = v % 65536 ∧ q.marker = p.marker ∧ q.count = p.count ∧ q.payload = p.payload) ∧
  (∀ (s : State) (p : Packet) (v : Int), ∃ q : Packet,
    exec (.pktSetCount p v) s = .next { s with response := some (.packet q) } ∧
      (q.count.toNat : Int) = v % 65536 ∧ q.marker = p.marker ∧ q.type = p.type ∧ q.payload = p.payload)

/-- R75, where the payload fits: PKT_SET_PAYLOAD returns the packet with the payload replaced. -/
def Obligations.PktSetPayloadReplacesThePayload : Prop :=
  ∀ (s : State) (p : Packet) (pl : List Byte), pl.length ≤ s.cfg.maxPayload.val →
    exec (.pktSetPayload p pl) s = .next { s with response := some (.packet
      { marker := p.marker, type := p.type, count := p.count, payload := pl }) }

/-- R79, R80, R53, R54, where the payload fits: ENCODE and ENCODE_RAW return the 8 header bytes, the size being the payload's
length, then the payload: `8 + L` bytes, whatever the packet's marker. -/
def Obligations.EncodeEmitsTheFrame : Prop :=
  (∀ (s : State) (p : Packet), p.payload.length ≤ s.cfg.maxPayload.val → ∃ z : Word, z.toNat = p.payload.length ∧
    exec (.encode p) s = .next { s with response := some (.frame
      ([hi8 s.cfg.sop, lo8 s.cfg.sop, hi8 p.type, lo8 p.type, hi8 p.count, lo8 p.count, hi8 z, lo8 z] ++ p.payload)) }) ∧
  (∀ (s : State) (t c : Int) (pl : List Byte), pl.length ≤ s.cfg.maxPayload.val → ∃ tw cw z : Word,
    (tw.toNat : Int) = t % 65536 ∧ (cw.toNat : Int) = c % 65536 ∧ z.toNat = pl.length ∧
    exec (.encodeRaw t c pl) s = .next { s with response := some (.frame
      ([hi8 s.cfg.sop, lo8 s.cfg.sop, hi8 tw, lo8 tw, hi8 cw, lo8 cw, hi8 z, lo8 z] ++ pl)) })

/-- R104, R106, R107: the four operations that take a payload raise PayloadTooLarge with its length exactly when it exceeds
MAX_PAYLOAD, nothing else raises, and raising changes nothing (how a raise ends a step is log 5's). -/
def Obligations.OverlongPayloadsAreRaised : Prop :=
  (∀ (s : State) (p : Packet) (t c : Int) (pl : List Byte), s.cfg.maxPayload.val < pl.length →
    ∀ i ∈ [Instr.pktNew t c pl, .pktSetPayload p pl, .encodeRaw t c pl, .encode { p with payload := pl }],
      exec i s = .next { s with response := some (.raised (.payloadTooLarge pl.length)) }) ∧
  (∀ (i : Instr) (s t : State) (n : Nat), exec i s = .next t → t.response = some (.raised (.payloadTooLarge n)) →
    s.cfg.maxPayload.val < n ∧ ∃ pl : List Byte, pl.length = n ∧
      ((∃ a c, i = .pktNew a c pl) ∨ (∃ p, i = .pktSetPayload p pl) ∨ (∃ a c, i = .encodeRaw a c pl) ∨
        (∃ p : Packet, p.payload = pl ∧ i = .encode p)))

/-- R68, R80: ENCODE_RAW is PKT_NEW followed by ENCODE of its packet; when PKT_NEW raises, that is its outcome. Its
command code 0x05 is R61's (decision D2), and that a raise is a next state is the model's choice (log 5). -/
def Obligations.EncodeRawIsPktNewThenEncode : Prop :=
  ∀ (s : State) (t c : Int) (pl : List Byte), decode ⟨0x05, .ftcp t c pl⟩ = .ok (.encodeRaw t c pl) ∧
    ∃ u, exec (.pktNew t c pl) s = .next u ∧
      ((∃ p, u.response = some (.packet p) ∧ exec (.encodeRaw t c pl) s = exec (.encode p) u) ∨
        (∃ f, u.response = some (.raised f) ∧ exec (.encodeRaw t c pl) s = .next u))

/-- R81: the encoder's result depends on its operand and the configuration only, and it changes nothing of the block. That a
raise is a next state, as the result on an overlong payload, is the model's choice (log 5). -/
def Obligations.EncoderIsPure : Prop :=
  ∀ (s s' : State), s.cfg = s'.cfg →
    (∀ p : Packet, ∃ r, exec (.encode p) s = .next { s with response := some r } ∧
      exec (.encode p) s' = .next { s' with response := some r }) ∧
    (∀ (t c : Int) (pl : List Byte), ∃ r, exec (.encodeRaw t c pl) s = .next { s with response := some r } ∧
      exec (.encodeRaw t c pl) s' = .next { s' with response := some r })

/-- Frame of the packet operations, the encoder and GET_PACKET (40_packet.md, R81, R95): no decoder field, no epoch, no
configuration; only the result. -/
def Obligations.PacketAndEncoderOperationsTouchNoBlockState : Prop :=
  ∀ (i : Instr) (s t : State), i.opcode ∈ [Opcode.getPacket, .encode, .encodeRaw, .pktNew, .pktSetType, .pktSetCount,
    .pktSetPayload] → exec i s = .next t → t = { s with response := t.response }

/-- R76: every packet an operation builds has at most MAX_PAYLOAD bytes, if the packet it was given had. -/
def Obligations.BuiltPacketsAreWithinTheCap : Prop :=
  ∀ (i : Instr) (s t : State) (q : Packet), exec i s = .next t → t.response = some (.packet q) →
    (∀ p, packetOperand i = some p → packetSize p ≤ s.cfg.maxPayload.val) → packetSize q ≤ s.cfg.maxPayload.val

/-! ## The whole machine -/

/-- R25: the creation state is in its phase's row, every step keeps the row, and a state in its row has
`len(payload_buf) ≤ expected_payload_size ≤ MAX_PAYLOAD` and the flag set exactly in AwaitingPayload and Complete. -/
def Obligations.EveryStepKeepsTheReachableStateInvariant : Prop :=
  (∀ cfg : Config, (State.creation cfg).Inv) ∧
  (∀ s t : State, s.Inv → step s = .next t → t.Inv) ∧
  (∀ s : State, s.Inv → s.dec.payloadBuf.length ≤ s.dec.expectedPayloadSize.toNat ∧
    s.dec.expectedPayloadSize.toNat ≤ s.cfg.maxPayload.val ∧
    (s.dec.headerComplete = true ↔ (s.dec.phase = .awaitingPayload ∨ s.dec.phase = .complete)))

/-- R124, R25: the machine's reset state is in its row, at a frame boundary. -/
def Obligations.ResetStateSatisfiesTheInvariant : Prop :=
  State.reset.Inv ∧ State.reset.AtFrameBoundary

/-- R108: whatever is fed, from a state R25 allows, DECODE_BYTE and DECODE_BUFFER give a status and a state R25 allows. -/
def Obligations.NoInputEscalates : Prop :=
  ∀ s : State, s.Inv →
    (∀ v : Int, ∃ t st, exec (.decodeByte v) s = .next t ∧ t.response = some (.status st) ∧ t.Inv) ∧
    (∀ (buf : Option (List Int)) (offset : Nat), ∃ t st k, exec (.decodeBuffer buf offset) s = .next t ∧
      t.response = some (.statusIndex st k) ∧ t.Inv)

/-- R70, R98: no operation returns ErrorOverflow, and DECODE_BUFFER returns only a status that DECODE_BYTE returns on one of
its elements, or ErrorNullOrInvalidParam. -/
def Obligations.ErrorOverflowIsNeverReturned : Prop :=
  (∀ (i : Instr) (s t : State), exec i s = .next t →
    t.response ≠ some (.status .errorOverflow) ∧ ∀ k, t.response ≠ some (.statusIndex .errorOverflow k)) ∧
  (∀ (s t : State) (buf : Option (List Int)) (offset k : Nat) (st : Status),
    exec (.decodeBuffer buf offset) s = .next t → t.response = some (.statusIndex st k) →
    st = .errorNullOrInvalidParam ∨
      ∃ xs v s' t', buf = some xs ∧ v ∈ xs ∧ exec (.decodeByte v) s' = .next t' ∧ t'.response = some (.status st))

/-- R92: from the reset state, pairs that are not SOP are dropped pair by pair, never at an odd offset, each with
ErrorInvalidMarker at its second byte; a legal frame after them is decoded. -/
def Obligations.ResynchronizationInWholePairs : Prop :=
  ∀ (s : State) (pairs : List (Byte × Byte)), s.dec = State.reset.dec →
    (∀ p ∈ pairs, [p.1, p.2] ≠ [hi8 s.cfg.sop, lo8 s.cfg.sop]) →
    ∃ t, feed (pairs.flatMap (fun p => [p.1, p.2])) s =
        some (pairs.flatMap (fun _ => [Status.inProgress, .errorInvalidMarker]), t) ∧
      t.dec = State.reset.dec ∧ t.epoch = s.epoch + 2 * pairs.length ∧
      ∀ f : List Byte, legalFrame s.cfg f = true → ∃ u, feed f t =
        some (List.replicate (f.length - 1) .inProgress ++ [.success], u) ∧ u.dec.phase = .complete

/-- R56, R90: a header with the marker and a size above MAX_PAYLOAD gives ErrorPayloadTooLarge on its eighth byte, before any
payload byte, and the reset state. -/
def Obligations.OversizedHeaderRejectedAtEighthByte : Prop :=
  ∀ (s : State) (t1 t0 c1 c0 z1 z0 : Byte), s.Inv → s.AtFrameBoundary →
    s.cfg.maxPayload.val < z1.toNat * 256 + z0.toNat →
    ∃ t, feed [hi8 s.cfg.sop, lo8 s.cfg.sop, t1, t0, c1, c0, z1, z0] s =
        some (List.replicate 7 .inProgress ++ [.errorPayloadTooLarge], t) ∧ t.dec = State.reset.dec

/-- R101: a header with size 0 gives Success on its eighth byte, straight from AwaitingSize to Complete, and GET_PACKET then
returns the packet with an empty payload. -/
def Obligations.ZeroLengthFrame : Prop :=
  (∀ (s : State) (t1 t0 c1 c0 : Byte), s.Inv → s.AtFrameBoundary →
    ∃ t u, feed [hi8 s.cfg.sop, lo8 s.cfg.sop, t1, t0, c1, c0, 0, 0] s =
        some (List.replicate 7 .inProgress ++ [.success], t) ∧
      exec .getPacket t = .next u ∧ u.response = some (.retrieved (some
        { packet := { marker := s.cfg.sop, type := be16 t1 t0, count := be16 c1 c0, payload := [] }
          tag := t.epoch }))) ∧
  (∀ s : State, s.dec.phase = .awaitingSize → s.dec.sizeBuf = [0] → ∃ t, exec (.decodeByte 0) s = .next t ∧
    t.response = some (.status .success) ∧ t.dec.phase = .complete)

/-- R102: from a frame boundary, a legal frame gives InProgress for every byte but the last and Success for the last; two bytes
that are not SOP give ErrorInvalidMarker at the second and the reset state. -/
def Obligations.StatusSequenceOfAFrame : Prop :=
  (∀ (s : State) (f : List Byte), s.Inv → s.AtFrameBoundary → legalFrame s.cfg f = true →
    ∃ t, feed f s = some (List.replicate (f.length - 1) .inProgress ++ [.success], t) ∧ t.dec.phase = .complete) ∧
  (∀ (s : State) (b0 b1 : Byte), s.Inv → s.AtFrameBoundary → [b0, b1] ≠ [hi8 s.cfg.sop, lo8 s.cfg.sop] →
    ∃ t, feed [b0, b1] s = some ([.inProgress, .errorInvalidMarker], t) ∧ t.dec = State.reset.dec)

/-- R82: the round trip. The bytes ENCODE returns for a valid packet, fed one at a time from any frame boundary, give
InProgress for all but the last and Success for the last, and GET_PACKET then returns a packet equal in type, count and
payload. -/
def Obligations.EncodeThenDecodeRoundTrip : Prop :=
  ∀ (s : State) (p : Packet), s.Inv → s.AtFrameBoundary → p.payload.length ≤ s.cfg.maxPayload.val →
    ∃ w t q, exec (.encode p) s = .next { s with response := some (.frame w) } ∧
      feed w s = some (List.replicate (w.length - 1) .inProgress ++ [.success], t) ∧
      exec .getPacket t = .next { t with response := some (.retrieved (some q)) } ∧
      q.packet.type = p.type ∧ q.packet.count = p.count ∧ q.packet.payload = p.payload

/-- The source's back-to-back property (95_test_vectors.md S-5, R93, R129): two encoded frames in one host buffer, decoded by
two calls, the second at the index the first returned, give Success twice and both packets. -/
def Obligations.BackToBackFramesInOneBuffer : Prop :=
  ∀ (s : State) (p p' : Packet), s.Inv → s.AtFrameBoundary → p.payload.length ≤ s.cfg.maxPayload.val →
    p'.payload.length ≤ s.cfg.maxPayload.val →
    ∃ w w' t t' q q', exec (.encode p) s = .next { s with response := some (.frame w) } ∧
      exec (.encode p') s = .next { s with response := some (.frame w') } ∧
      exec (.decodeBuffer (some (bufferOf (w ++ w'))) 0) s = .next t ∧
      t.response = some (.statusIndex .success w.length) ∧
      exec .getPacket t = .next { t with response := some (.retrieved (some q)) } ∧ samePacket q.packet p = true ∧
      exec (.decodeBuffer (some (bufferOf (w ++ w'))) w.length) t = .next t' ∧
      t'.response = some (.statusIndex .success (w.length + w'.length)) ∧
      exec .getPacket t' = .next { t' with response := some (.retrieved (some q')) } ∧ samePacket q'.packet p' = true
end

