-- ==== Sys2Proof/Laws/State.lean ====
section
/-! SUPPORT. One lemma per field per named update, each true by unfolding. -/

namespace Sys2Proof.Machine

@[simp] theorem State.commit_cfg (s : State) (d : Decoder) : (s.commit d).cfg = s.cfg := rfl
@[simp] theorem State.commit_dec (s : State) (d : Decoder) : (s.commit d).dec = d := rfl
@[simp] theorem State.commit_epoch (s : State) (d : Decoder) : (s.commit d).epoch = s.epoch + 1 := rfl
@[simp] theorem State.commit_pending (s : State) (d : Decoder) : (s.commit d).pending = s.pending := rfl
@[simp] theorem State.commit_response (s : State) (d : Decoder) : (s.commit d).response = s.response := rfl

@[simp] theorem State.respond_cfg (s : State) (r : Response) : (s.respond r).cfg = s.cfg := rfl
@[simp] theorem State.respond_dec (s : State) (r : Response) : (s.respond r).dec = s.dec := rfl
@[simp] theorem State.respond_epoch (s : State) (r : Response) : (s.respond r).epoch = s.epoch := rfl
@[simp] theorem State.respond_pending (s : State) (r : Response) : (s.respond r).pending = s.pending := rfl
@[simp] theorem State.respond_response (s : State) (r : Response) : (s.respond r).response = some r := rfl

/-- A later result replaces an earlier one. -/
@[simp] theorem State.respond_respond (s : State) (r r' : Response) : (s.respond r).respond r' = s.respond r' := rfl

@[simp] theorem State.withPending_cfg (s : State) (l : List HostAction) : (s.withPending l).cfg = s.cfg := rfl
@[simp] theorem State.withPending_dec (s : State) (l : List HostAction) : (s.withPending l).dec = s.dec := rfl
@[simp] theorem State.withPending_epoch (s : State) (l : List HostAction) : (s.withPending l).epoch = s.epoch := rfl
@[simp] theorem State.withPending_pending (s : State) (l : List HostAction) : (s.withPending l).pending = l := rfl
@[simp] theorem State.withPending_response (s : State) (l : List HostAction) :
    (s.withPending l).response = s.response := rfl

/-- A full reset forgets the state it resets from (R83). -/
@[simp] theorem Decoder.fullReset_eq (d : Decoder) : d.fullReset = Decoder.reset := rfl

@[simp] theorem Decoder.reset_phase : Decoder.reset.phase = .awaitingMarker := rfl
@[simp] theorem Decoder.reset_markerBuf : Decoder.reset.markerBuf = [] := rfl
@[simp] theorem Decoder.reset_typeBuf : Decoder.reset.typeBuf = [] := rfl
@[simp] theorem Decoder.reset_countBuf : Decoder.reset.countBuf = [] := rfl
@[simp] theorem Decoder.reset_sizeBuf : Decoder.reset.sizeBuf = [] := rfl
@[simp] theorem Decoder.reset_payloadBuf : Decoder.reset.payloadBuf = [] := rfl
@[simp] theorem Decoder.reset_expectedPayloadSize : Decoder.reset.expectedPayloadSize = 0 := rfl
@[simp] theorem Decoder.reset_headerComplete : Decoder.reset.headerComplete = false := rfl

@[simp] theorem Decoder.latchHeader_phase (n : Word) (d : Decoder) : (d.latchHeader n).phase = d.phase := rfl
@[simp] theorem Decoder.latchHeader_markerBuf (n : Word) (d : Decoder) :
    (d.latchHeader n).markerBuf = d.markerBuf := rfl
@[simp] theorem Decoder.latchHeader_typeBuf (n : Word) (d : Decoder) : (d.latchHeader n).typeBuf = d.typeBuf := rfl
@[simp] theorem Decoder.latchHeader_countBuf (n : Word) (d : Decoder) : (d.latchHeader n).countBuf = d.countBuf := rfl
@[simp] theorem Decoder.latchHeader_sizeBuf (n : Word) (d : Decoder) : (d.latchHeader n).sizeBuf = d.sizeBuf := rfl
@[simp] theorem Decoder.latchHeader_payloadBuf (n : Word) (d : Decoder) :
    (d.latchHeader n).payloadBuf = d.payloadBuf := rfl
@[simp] theorem Decoder.latchHeader_expectedPayloadSize (n : Word) (d : Decoder) :
    (d.latchHeader n).expectedPayloadSize = n := rfl
@[simp] theorem Decoder.latchHeader_headerComplete (n : Word) (d : Decoder) :
    (d.latchHeader n).headerComplete = true := rfl

end Sys2Proof.Machine
end

