-- ==== Sys2Proof/Laws/Decode.lean ====
section
/-! SUPPORT. The opcode table is unambiguous, and every code above its last is reserved. -/

namespace Sys2Proof

/-! The row each assigned code selects (R61). -/

@[simp] theorem lookupCode_reset : lookupCode 0x00 =
    some ⟨0xFF, 0x00, "RESET", .f0, .reset⟩ := by decide
@[simp] theorem lookupCode_decodeByte : lookupCode 0x01 =
    some ⟨0xFF, 0x01, "DECODE_BYTE", .fb, .decodeByte⟩ := by decide
@[simp] theorem lookupCode_decodeBuffer : lookupCode 0x02 =
    some ⟨0xFF, 0x02, "DECODE_BUFFER", .fbuf, .decodeBuffer⟩ := by decide
@[simp] theorem lookupCode_getPacket : lookupCode 0x03 =
    some ⟨0xFF, 0x03, "GET_PACKET", .f0, .getPacket⟩ := by decide
@[simp] theorem lookupCode_encode : lookupCode 0x04 =
    some ⟨0xFF, 0x04, "ENCODE", .fp, .encode⟩ := by decide
@[simp] theorem lookupCode_encodeRaw : lookupCode 0x05 =
    some ⟨0xFF, 0x05, "ENCODE_RAW", .ftcp, .encodeRaw⟩ := by decide
@[simp] theorem lookupCode_pktNew : lookupCode 0x06 =
    some ⟨0xFF, 0x06, "PKT_NEW", .ftcp, .pktNew⟩ := by decide
@[simp] theorem lookupCode_pktSetType : lookupCode 0x07 =
    some ⟨0xFF, 0x07, "PKT_SET_TYPE", .fpv, .pktSetType⟩ := by decide
@[simp] theorem lookupCode_pktSetCount : lookupCode 0x08 =
    some ⟨0xFF, 0x08, "PKT_SET_COUNT", .fpv, .pktSetCount⟩ := by decide
@[simp] theorem lookupCode_pktSetPayload : lookupCode 0x09 =
    some ⟨0xFF, 0x09, "PKT_SET_PAYLOAD", .fpl, .pktSetPayload⟩ := by decide

/-- Any two rows of R61's table differ in a bit both of their masks look at, so no code selects two rows. -/
theorem opcodeTable_disjoint :
    opcodeTable.Pairwise (fun r q => r.mask &&& q.mask &&& (r.pattern ^^^ q.pattern) ≠ 0) := by
  decide

/-- Every row looks at the whole code, and its pattern is at most 9 (R61). -/
theorem opcodeTable_rows : ∀ r ∈ opcodeTable, r.mask = BitVec.allOnes 8 ∧ r.pattern.toNat < 10 := by
  decide

/-- A code above 9 selects no row (R62). -/
theorem lookupCode_reserved {code : Byte} (h : 10 ≤ code.toNat) : lookupCode code = none := by
  refine List.find?_eq_none.2 (fun r hr hs => ?_)
  obtain ⟨hm, hp⟩ := opcodeTable_rows r hr
  have he : code = r.pattern := by
    rw [OpcodeRow.selects, hm, BitVec.and_allOnes] at hs
    exact beq_iff_eq.1 hs
  rw [he] at h
  omega

end Sys2Proof
end

