-- ==== Sys2Proof/Laws/Operands.lean ====
section
/-! SUPPORT. The field arithmetic of R9 and R11, and the byte range check. -/

namespace Sys2Proof.Machine

theorem be16_toNat (b0 b1 : Byte) : (be16 b0 b1).toNat = b0.toNat * 256 + b1.toNat := by
  have h0 := b0.isLt
  have h1 := b1.isLt
  simp only [be16, BitVec.toNat_ofNat]
  omega

theorem hi8_toNat (v : Word) : (hi8 v).toNat = v.toNat / 256 := by
  have h := v.isLt
  simp only [hi8, BitVec.extractLsb'_toNat, Nat.shiftRight_eq_div_pow]
  omega

theorem lo8_toNat (v : Word) : (lo8 v).toNat = v.toNat % 256 := by
  simp [lo8, BitVec.extractLsb'_toNat]

@[simp] theorem hi8_be16 (b0 b1 : Byte) : hi8 (be16 b0 b1) = b0 := by
  apply BitVec.eq_of_toNat_eq
  have h1 := b1.isLt
  rw [hi8_toNat, be16_toNat]
  omega

@[simp] theorem lo8_be16 (b0 b1 : Byte) : lo8 (be16 b0 b1) = b1 := by
  apply BitVec.eq_of_toNat_eq
  have h1 := b1.isLt
  rw [lo8_toNat, be16_toNat]
  omega

theorem wireBytes_be16 (b0 b1 : Byte) : wireBytes (be16 b0 b1) = [b0, b1] := by
  simp [wireBytes]

/-- A 2-byte buffer is filled with a value exactly when it holds the value's wire bytes. -/
theorem wordOf_eq_some {l : List Byte} {v : Word} (h : wordOf l = some v) : l = wireBytes v := by
  match l, h with
  | [b0, b1], h =>
    cases h
    exact (wireBytes_be16 b0 b1).symm

/-- Every byte passes the range check as itself. -/
@[simp] theorem byteOf_byte (b : Byte) : byteOf (b.toNat : Int) = some b := by
  have h := b.isLt
  have hr : ¬ ((b.toNat : Int) < 0 ∨ (255 : Int) < b.toNat) := by omega
  simp only [byteOf, hr, if_false, Int.toNat_natCast, BitVec.ofNat_toNat, BitVec.setWidth_eq]

theorem byteOf_eq_none {v : Int} (h : v < 0 ∨ 255 < v) : byteOf v = none := by
  simp [byteOf, h]

/-- What an in-range operand is: the integer of some byte. -/
theorem byteOf_eq_some {v : Int} {b : Byte} (h : byteOf v = some b) : v = b.toNat := by
  unfold byteOf at h
  split at h
  · cases h
  · cases h
    simp only [BitVec.toNat_ofNat]
    omega

theorem exceedsCap_eq_false {cfg : Config} {n : Nat} (h : n ≤ cfg.maxPayload.val) : exceedsCap cfg n = false := by
  simp [exceedsCap, h]

theorem exceedsCap_eq_true {cfg : Config} {n : Nat} (h : cfg.maxPayload.val < n) : exceedsCap cfg n = true := by
  simp [exceedsCap, h]

end Sys2Proof.Machine
end

