-- ==== Sys2Proof/Laws/Ops.lean ====
section
/-! SUPPORT. What each shared operation can do, said once. -/

namespace Sys2Proof.Machine

/-- An operation ends in the same state with a result, and nothing else. -/
theorem finish_eq (r : Response) (s : State) : finish r s = .next (s.respond r) := rfl

/-- Raising or returning, an operation of this shape changes only the result (R106). -/
theorem deliver_answers {α : Type} (f : α → Response) (x : Except ConstructionFault α) (s : State) :
    ∃ r, deliver f x s = .next (s.respond r) := by
  cases x
  · exact ⟨_, rfl⟩
  · exact ⟨_, rfl⟩

theorem checkPayload_fits {cfg : Config} {pl : List Byte} (h : pl.length ≤ cfg.maxPayload.val) :
    checkPayload cfg pl = .ok pl := by
  simp [checkPayload, exceedsCap_eq_false h]

theorem checkPayload_exceeds {cfg : Config} {pl : List Byte} (h : cfg.maxPayload.val < pl.length) :
    checkPayload cfg pl = .error (.payloadTooLarge pl.length) := by
  simp [checkPayload, exceedsCap_eq_true h]

theorem buildPacket_fits {cfg : Config} {pl : List Byte} (t c : Int) (h : pl.length ≤ cfg.maxPayload.val) :
    buildPacket cfg t c pl = .ok ⟨cfg.sop, mask16 t, mask16 c, pl⟩ := by
  rw [buildPacket, checkPayload_fits h]; rfl

theorem buildPacket_exceeds {cfg : Config} {pl : List Byte} (t c : Int) (h : cfg.maxPayload.val < pl.length) :
    buildPacket cfg t c pl = .error (.payloadTooLarge pl.length) := by
  rw [buildPacket, checkPayload_exceeds h]; rfl

theorem replacePayload_fits {cfg : Config} (p : Packet) {pl : List Byte} (h : pl.length ≤ cfg.maxPayload.val) :
    replacePayload cfg p pl = .ok { p with payload := pl } := by
  rw [replacePayload, checkPayload_fits h]; rfl

theorem replacePayload_exceeds {cfg : Config} (p : Packet) {pl : List Byte} (h : cfg.maxPayload.val < pl.length) :
    replacePayload cfg p pl = .error (.payloadTooLarge pl.length) := by
  rw [replacePayload, checkPayload_exceeds h]; rfl

theorem encodeFrame_fits {cfg : Config} {p : Packet} (h : p.payload.length ≤ cfg.maxPayload.val) :
    encodeFrame cfg p = .ok (frameHeader cfg p ++ p.payload) := by
  rw [encodeFrame, checkPayload_fits h]; rfl

theorem encodeFrame_exceeds {cfg : Config} {p : Packet} (h : cfg.maxPayload.val < p.payload.length) :
    encodeFrame cfg p = .error (.payloadTooLarge p.payload.length) := by
  rw [encodeFrame, checkPayload_exceeds h]; rfl

/-- The header is 8 bytes (R6, R54). -/
theorem frameHeader_length (cfg : Config) (p : Packet) : (frameHeader cfg p).length = Config.headerSize := rfl

end Sys2Proof.Machine
end

