-- ==== Sys2Proof/Laws/Decoder.lean ====
section
/-! SUPPORT. What one byte and one run can do to the state: every case, once, with what they leave unchanged. -/

namespace Sys2Proof.Machine

/-- Out of range: refused as a parameter, nothing changes (R85, R109). -/
theorem consumeByte_out_of_range {v : Int} (h : v < 0 ∨ 255 < v) (s : State) :
    consumeByte v s = (s, .errorNullOrInvalidParam) := by
  simp [consumeByte, byteOf_eq_none h]

/-- In range: one dispatch, one count of the epoch (R85, R33). -/
theorem consumeByte_byte (b : Byte) (s : State) :
    consumeByte b.toNat s = (s.commit (dispatchByte s.cfg b s.dec).1, (dispatchByte s.cfg b s.dec).2) := by
  simp [consumeByte]

/-- The two things DECODE_BYTE's operand can be. -/
theorem byte_or_out_of_range (v : Int) : (v < 0 ∨ 255 < v) ∨ ∃ b : Byte, v = b.toNat := by
  cases h : byteOf v with
  | none =>
    refine .inl ?_
    unfold byteOf at h
    split at h
    · assumption
    · cases h
  | some b => exact .inr ⟨b, byteOf_eq_some h⟩

@[simp] theorem consumeByte_cfg (v : Int) (s : State) : (consumeByte v s).1.cfg = s.cfg := by
  unfold consumeByte; split <;> rfl

@[simp] theorem consumeByte_pending (v : Int) (s : State) : (consumeByte v s).1.pending = s.pending := by
  unfold consumeByte; split <;> rfl

@[simp] theorem consumeByte_response (v : Int) (s : State) : (consumeByte v s).1.response = s.response := by
  unfold consumeByte; split <;> rfl

/-- A result delivered before a byte is consumed changes nothing of the byte's effect. -/
theorem consumeByte_respond (v : Int) (s : State) (r : Response) :
    consumeByte v (s.respond r) = ((consumeByte v s).1.respond r, (consumeByte v s).2) := by
  unfold consumeByte
  cases byteOf v <;> rfl

/-- The run goes on after InProgress (R93). -/
theorem consumeRun_goes_on {v : Int} {s : State} (h : (consumeByte v s).2 = .inProgress) (vs : List Int) (i : Nat) :
    consumeRun (v :: vs) i s = consumeRun vs (i + 1) (consumeByte v s).1 := by
  rw [consumeRun]
  simp only [if_pos h]

/-- The run stops after any other status, past the element that gave it (R93, C2). -/
theorem consumeRun_stops {v : Int} {s : State} (h : (consumeByte v s).2 ≠ .inProgress) (vs : List Int) (i : Nat) :
    consumeRun (v :: vs) i s = ((consumeByte v s).1, (consumeByte v s).2, i + 1) := by
  rw [consumeRun]
  simp only [if_neg h]

@[simp] theorem consumeRun_cfg (vs : List Int) (i : Nat) (s : State) : (consumeRun vs i s).1.cfg = s.cfg := by
  induction vs generalizing i s with
  | nil => rfl
  | cons v vs ih =>
    unfold consumeRun
    dsimp only
    split
    · simp [ih]
    · simp

@[simp] theorem consumeRun_pending (vs : List Int) (i : Nat) (s : State) :
    (consumeRun vs i s).1.pending = s.pending := by
  induction vs generalizing i s with
  | nil => rfl
  | cons v vs ih =>
    unfold consumeRun
    dsimp only
    split
    · simp [ih]
    · simp

/-- As `consumeByte_respond`, for a run. -/
theorem consumeRun_respond (vs : List Int) (i : Nat) (s : State) (r : Response) :
    consumeRun vs i (s.respond r) =
      ((consumeRun vs i s).1.respond r, (consumeRun vs i s).2.1, (consumeRun vs i s).2.2) := by
  induction vs generalizing i s with
  | nil => rfl
  | cons v vs ih =>
    unfold consumeRun
    simp only [consumeByte_respond]
    split
    · exact ih _ _
    · rfl

/-- Everything a dispatched byte can do (R86 to R91): grow a buffer and wait, move to the next phase, complete the
frame, or reset with a framing fault. -/
theorem dispatchByte_cases (cfg : Config) (b : Byte) (d : Decoder) :
    (∃ st, dispatchByte cfg b d = (Decoder.reset, st) ∧
      ((st = .errorInvalidMarker ∧ d.phase = .awaitingMarker) ∨
        (st = .errorPayloadTooLarge ∧ d.phase = .awaitingSize))) ∨
    (∃ e, dispatchByte cfg b d = (e, .success) ∧ e.phase = .complete ∧
      (d.phase = .awaitingSize ∨ d.phase = .awaitingPayload)) ∨
    (∃ e, dispatchByte cfg b d = (e, .inProgress)) := by
  unfold dispatchByte
  split <;> rename_i hp
  · unfold markerArm
    dsimp only
    split
    · exact .inr (.inr ⟨_, rfl⟩)
    · split
      · exact .inr (.inr ⟨_, rfl⟩)
      · exact .inl ⟨_, rfl, .inl ⟨rfl, hp⟩⟩
  · unfold typeArm
    dsimp only
    split <;> exact .inr (.inr ⟨_, rfl⟩)
  · unfold countArm
    dsimp only
    split <;> exact .inr (.inr ⟨_, rfl⟩)
  · unfold sizeArm
    dsimp only
    split
    · unfold validateSize
      split
      · exact .inl ⟨_, rfl, .inr ⟨rfl, hp⟩⟩
      · split
        · exact .inr (.inl ⟨_, rfl, rfl, .inl hp⟩)
        · exact .inr (.inr ⟨_, rfl⟩)
    · exact .inr (.inr ⟨_, rfl⟩)
  · unfold payloadArm
    dsimp only
    split
    · exact .inr (.inl ⟨_, rfl, rfl, .inr hp⟩)
    · exact .inr (.inr ⟨_, rfl⟩)
  · exact .inr (.inr ⟨_, rfl⟩)

end Sys2Proof.Machine
end

