-- ==== Sys2Proof/Laws/PerInstr.lean ====
section
/-! SUPPORT. Per-instruction laws. CodeAssigned: an instruction's code selects the table's row of its own operation,
and its operands are of that row's format (R60, R61). -/

namespace Sys2Proof.Laws.CodeAssigned

def Statement (i : Instr) : Prop :=
  ∃ row, lookupCode (encode i).code = some row ∧ row.opcode = i.opcode ∧ row.format = (encode i).operands.format

theorem reset : Statement .reset := ⟨_, lookupCode_reset, rfl, rfl⟩
theorem decodeByte (v : Int) : Statement (.decodeByte v) := ⟨_, lookupCode_decodeByte, rfl, rfl⟩
theorem decodeBuffer (buf : Option (List Int)) (offset : Nat) : Statement (.decodeBuffer buf offset) := ⟨_, lookupCode_decodeBuffer, rfl, rfl⟩
theorem getPacket : Statement .getPacket := ⟨_, lookupCode_getPacket, rfl, rfl⟩
theorem encode (p : Packet) : Statement (.encode p) := ⟨_, lookupCode_encode, rfl, rfl⟩
theorem encodeRaw (t c : Int) (pl : List Byte) : Statement (.encodeRaw t c pl) := ⟨_, lookupCode_encodeRaw, rfl, rfl⟩
theorem pktNew (t c : Int) (pl : List Byte) : Statement (.pktNew t c pl) := ⟨_, lookupCode_pktNew, rfl, rfl⟩
theorem pktSetType (p : Packet) (v : Int) : Statement (.pktSetType p v) := ⟨_, lookupCode_pktSetType, rfl, rfl⟩
theorem pktSetCount (p : Packet) (v : Int) : Statement (.pktSetCount p v) := ⟨_, lookupCode_pktSetCount, rfl, rfl⟩
theorem pktSetPayload (p : Packet) (pl : List Byte) : Statement (.pktSetPayload p pl) := ⟨_, lookupCode_pktSetPayload, rfl, rfl⟩

end Sys2Proof.Laws.CodeAssigned
end

