-- ==== Sys2Proof/Laws/Step.lean ====
section
/-! SUPPORT. DECODE_BYTE and DECODE_BUFFER as instructions, a step by the host's oldest action, and runs that stop or idle. -/

namespace Sys2Proof.Machine

/-- DECODE_BYTE of an in-range operand, as one dispatch (R85). -/
theorem exec_decodeByte_byte (b : Byte) (s : State) :
    exec (.decodeByte b.toNat) s =
      .next ((s.commit (dispatchByte s.cfg b s.dec).1).respond (.status (dispatchByte s.cfg b s.dec).2)) := by
  simp only [exec, execDecodeByte, consumeByte_byte, finish_eq]

/-- The two things DECODE_BUFFER can do: refuse an empty input, or consume the run from the offset (R93). -/
theorem exec_decodeBuffer_cases (buf : Option (List Int)) (offset : Nat) (s : State) :
    exec (.decodeBuffer buf offset) s = .next (s.respond (.statusIndex .errorNullOrInvalidParam offset)) ∨
    ∃ xs, buf = some xs ∧ offset < xs.length ∧ exec (.decodeBuffer buf offset) s =
      .next ((consumeRun (xs.drop offset) offset s).1.respond (.statusIndex
        (consumeRun (xs.drop offset) offset s).2.1 (consumeRun (xs.drop offset) offset s).2.2)) := by
  cases buf with
  | none => exact .inl rfl
  | some xs =>
    simp only [exec, execDecodeBuffer]
    split
    · exact .inl rfl
    · exact .inr ⟨xs, rfl, by omega, rfl⟩

/-- Feeding a byte, then the rest. -/
theorem feed_cons (b : Byte) (bs : List Byte) (s : State) :
    feed (b :: bs) s =
      (feed bs ((s.commit (dispatchByte s.cfg b s.dec).1).respond (.status (dispatchByte s.cfg b s.dec).2))).map
        (fun r => ((dispatchByte s.cfg b s.dec).2 :: r.1, r.2)) := by
  rw [feed, exec_decodeByte_byte]
  rfl

theorem step_idle {s : State} (h : s.pending = []) : step s = .next s := by
  simp [step, h]

theorem step_action {s : State} {a : HostAction} {rest : List HostAction} (h : s.pending = a :: rest) :
    step s = runAction a (s.withPending rest) := by
  simp [step, h]

/-- A run that faults at its first step has faulted for good (R127). -/
theorem run_of_fault (M : Host.Core) {s : M.State} {r : M.Fault} (h : M.step s = .fault r) (k : Nat) :
    M.run (k + 1) s = .fault r := by
  simp [Host.Core.run, h]

/-- "The refusal mark stays for the whole run" (R62). -/
theorem run_of_refused (M : Host.Core) {s : M.State} {r : M.Refusal} (h : M.step s = .refused r) (k : Nat) :
    M.run (k + 1) s = .refused r := by
  simp [Host.Core.run, h]

/-- A machine whose step changes nothing stays where it is (R96). -/
theorem run_of_idle (M : Host.Core) {s : M.State} (h : M.step s = .next s) (k : Nat) : M.run k s = .next s := by
  induction k with
  | zero => rfl
  | succ k ih => simp [Host.Core.run, h, ih]

end Sys2Proof.Machine
end

