-- ==== Sys2Proof/Tests/Slice0.lean ====
section
/-! SUPPORT. Tests: ill-formed terms, command words written out from R61, one-step vectors of 95_test_vectors.md, and for
each obligation with hypotheses a witness that meets them. -/

namespace Sys2Proof.Tests

open Sys2Proof.Machine

/-! ## Helpers -/

/-- The state an outcome gives, or a given one. -/
def nextOr (o : Host.Outcome State Fault Refusal) (s : State) : State :=
  match o with
  | .next t => t
  | _ => s

/-- The result an outcome returns. -/
def resultOf (o : Host.Outcome State Fault Refusal) : Option Response :=
  match o with
  | .next t => t.response
  | _ => none

/-- The decoder and epoch an outcome leaves. -/
def blockOf (o : Host.Outcome State Fault Refusal) : Option (Decoder × Nat) :=
  match o with
  | .next t => some (t.dec, t.epoch)
  | _ => none

/-- The default configuration's creation state with another decoder and epoch. -/
def withDecoder (d : Decoder) (e : Nat) : State := { State.reset with dec := d, epoch := e }

/-- A cap of 2 payload bytes, so that both sides of it are short. -/
def cap2 : State := State.creation { maxPayload := 2 }

/-- The packet of the source's concrete vector (S-9). -/
def hello : Packet := ⟨0xB0B2, 0x0103, 1, [0x48, 0x65, 0x6C, 0x6C, 0x6F]⟩

def markerB0 : State := withDecoder { Decoder.reset with markerBuf := [0xB0] } 1
def inType : State := withDecoder { Decoder.reset with phase := .awaitingType, markerBuf := [0xB0, 0xB2], typeBuf := [1] } 3
def inCount : State :=
  withDecoder { Decoder.reset with phase := .awaitingCount, markerBuf := [0xB0, 0xB2], typeBuf := [1, 3] } 4

/-- AwaitingSize with the given size bytes (DB-6). -/
def inSize (z : List Byte) : State :=
  withDecoder { Decoder.reset with
    phase := .awaitingSize, markerBuf := [0xB0, 0xB2], typeBuf := [1, 3], countBuf := [0, 1], sizeBuf := z } 7

/-- AwaitingPayload with the given bytes of 5. -/
def inPayload (l : List Byte) : State :=
  withDecoder ⟨.awaitingPayload, [0xB0, 0xB2], [1, 3], [0, 1], [0, 5], l, 5, true⟩ 11

/-- Complete after EN-1. -/
def completeHello : State :=
  withDecoder ⟨.complete, [0xB0, 0xB2], [1, 3], [0, 1], [0, 5], hello.payload, 5, true⟩ 13

/-! ## WellFormed: an ill-formed term for each check -/

theorem test_wf_encode : (Instr.encode { hello with marker := 0xB2B0 }).wellFormed {} = false := by decide
theorem test_wf_set_type : (Instr.pktSetType { hello with marker := 0 } 1).wellFormed {} = false := by decide
theorem test_wf_set_count : (Instr.pktSetCount { hello with marker := 0 } 1).wellFormed {} = false := by decide
theorem test_wf_set_payload : (Instr.pktSetPayload { hello with marker := 0 } []).wellFormed {} = false := by decide
theorem test_wf_accepts : (Instr.encode hello).wellFormed {} = true := by decide

/-! ## Decoding: each code written out from R61's bit patterns -/

theorem test_decode_reset : decode ⟨0b00000000, .f0⟩ = .ok .reset := by rfl
theorem test_decode_decodeByte : decode ⟨0b00000001, .fb (-5)⟩ = .ok (.decodeByte (-5)) := by rfl
theorem test_decode_decodeBuffer :
    decode ⟨0b00000010, .fbuf (some [0xB0, 300]) 1⟩ = .ok (.decodeBuffer (some [0xB0, 300]) 1) := by rfl
theorem test_decode_getPacket : decode ⟨0b00000011, .f0⟩ = .ok .getPacket := by rfl
theorem test_decode_encode : decode ⟨0b00000100, .fp hello⟩ = .ok (.encode hello) := by rfl
theorem test_decode_encodeRaw : decode ⟨0b00000101, .ftcp 2 3 [0x48]⟩ = .ok (.encodeRaw 2 3 [0x48]) := by rfl
theorem test_decode_pktNew : decode ⟨0b00000110, .ftcp 2 3 [0x48]⟩ = .ok (.pktNew 2 3 [0x48]) := by rfl
theorem test_decode_pktSetType : decode ⟨0b00000111, .fpv hello 9⟩ = .ok (.pktSetType hello 9) := by rfl
theorem test_decode_pktSetCount : decode ⟨0b00001000, .fpv hello 9⟩ = .ok (.pktSetCount hello 9) := by rfl
theorem test_decode_pktSetPayload : decode ⟨0b00001001, .fpl hello [7]⟩ = .ok (.pktSetPayload hello [7]) := by rfl

/-- R62: the first reserved code of each kind. -/
theorem test_decode_reserved : decode ⟨0x0A, .f0⟩ = .error (.reservedCode 0x0A) ∧
    decode ⟨0x10, .f0⟩ = .error (.reservedCode 0x10) := by constructor <;> rfl

/-- U13, log 12: RESET with an integer beside it. -/
theorem test_decode_malformed : decode ⟨0x00, .fb 0⟩ = .error (.malformedOperands 0x00) := by rfl

/-- The opcode table's words, with zero operands (log 13). -/
theorem test_table_words : (List.range 11).map (decodeTableWord 8) =
    [some .reset, some (.decodeByte 0), some (.decodeBuffer none 0), some .getPacket, some (.encode Packet.zero),
      some (.encodeRaw 0 0 []), some (.pktNew 0 0 []), some (.pktSetType Packet.zero 0),
      some (.pktSetCount Packet.zero 0), some (.pktSetPayload Packet.zero []), none] := by decide

/-! ## One-step vectors of 95_test_vectors.md -/

/-- RS-1. -/
theorem test_reset_rs1 : blockOf (exec .reset (inPayload [0x48, 0x65, 0x6C])) = some (Decoder.reset, 12) := by decide

/-- DB-8, the eighth byte: size 1025. -/
theorem test_decodeByte_db8 : resultOf (exec (.decodeByte 0x01) (inSize [0x04])) = some (.status .errorPayloadTooLarge) ∧
    blockOf (exec (.decodeByte 0x01) (inSize [0x04])) = some (Decoder.reset, 8) := by decide

/-- DB-12: 256 in Complete changes nothing. -/
theorem test_decodeByte_db12 : blockOf (exec (.decodeByte 256) completeHello) = some (completeHello.dec, 13) := by decide

/-- BF-9: an out-of-range element is consumed. -/
theorem test_decodeBuffer_bf9 : resultOf (exec (.decodeBuffer (some [0xB0, 300, 0xB2]) 0) State.reset) =
      some (.statusIndex .errorNullOrInvalidParam 2) ∧
    blockOf (exec (.decodeBuffer (some [0xB0, 300, 0xB2]) 0) State.reset) =
      some ({ Decoder.reset with markerBuf := [0xB0] }, 1) := by decide

/-- BF-10. -/
theorem test_decodeBuffer_bf10 : resultOf (exec (.decodeBuffer (some [0xB0, 0xB3, 0xB0, 0xB2]) 0) State.reset) =
    some (.statusIndex .errorInvalidMarker 2) := by decide

/-- GP-3. -/
theorem test_getPacket_gp3 : resultOf (exec .getPacket completeHello) = some (.retrieved (some ⟨hello, 13⟩)) := by decide

/-- GP-2: header complete, payload not. -/
theorem test_getPacket_gp2 : resultOf (exec .getPacket (inPayload [0x48])) = some (.retrieved none) := by decide

/-- EN-1. -/
theorem test_encode_en1 : resultOf (exec (.encode hello) State.reset) = some (.frame
    [0xB0, 0xB2, 0x01, 0x03, 0x00, 0x01, 0x00, 0x05, 0x48, 0x65, 0x6C, 0x6C, 0x6F]) := by decide

/-- R79 above the cap. -/
theorem test_encode_raises : resultOf (exec (.encode hello) cap2) = some (.raised (.payloadTooLarge 5)) := by decide

/-- EN-6. -/
theorem test_encodeRaw_en6 : resultOf (exec (.encodeRaw 65535 65536 [0x41]) State.reset) = some (.frame
    [0xB0, 0xB2, 0xFF, 0xFF, 0x00, 0x00, 0x00, 0x01, 0x41]) := by decide

/-- EN-5: a negative count. -/
theorem test_encodeRaw_en5 : resultOf (exec (.encodeRaw 0x10103 (-1) []) State.reset) = some (.frame
    [0xB0, 0xB2, 0x01, 0x03, 0xFF, 0xFF, 0x00, 0x00]) := by decide

/-- PK-3. -/
theorem test_pktNew_pk3 : resultOf (exec (.pktNew 65535 70000 []) State.reset) =
    some (.packet ⟨0xB0B2, 0xFFFF, 0x1170, []⟩) := by decide

/-- R72: one byte above the cap. -/
theorem test_pktNew_raises : resultOf (exec (.pktNew 0 0 [1, 2, 3]) cap2) = some (.raised (.payloadTooLarge 3)) := by
  decide

/-- PK-7. -/
theorem test_pktSetType_pk7 : resultOf (exec (.pktSetType hello 0x12345) State.reset) =
    some (.packet { hello with type := 0x2345 }) := by decide

/-- PK-8 and R74's corner. -/
theorem test_pktSetCount_pk8 : resultOf (exec (.pktSetCount hello 65537) State.reset) = some (.packet hello) ∧
    resultOf (exec (.pktSetCount hello 70000) State.reset) = some (.packet { hello with count := 4464 }) := by decide

/-- PK-9. -/
theorem test_pktSetPayload_pk9 : resultOf (exec (.pktSetPayload hello []) State.reset) =
    some (.packet { hello with payload := [] }) := by decide

/-- HZ-1 and HZ-2: a tag of 13 at epoch 14, and at epoch 13. -/
theorem test_stale_read : readRetrieved ⟨hello, 13⟩ .type (withDecoder Decoder.reset 14) = .fault .stalePacket ∧
    resultOf (readRetrieved ⟨hello, 13⟩ .type completeHello) = some (.field (.word 0x0103)) := ⟨rfl, by decide⟩

/-- PK-13. -/
theorem test_printable_pk13 : [hello.payload, [0x48, 0x00], [], [0x7E, 0x20], [0x7F]].map printable =
    [true, false, true, true, false] := by decide

/-- The host's placement of a table word: the first step after reset runs it. -/
theorem test_withFetchWord : resultOf (step (State.reset.withFetchWord 8 6)) =
    some (.packet ⟨0xB0B2, 0, 0, []⟩) := by decide

/-- From reset with nothing issued, a step changes nothing (R96). -/
theorem test_idle : step State.reset = .next State.reset := by rfl

/-! ## Witnesses: the hypotheses of each obligation are met -/

theorem witness_ReservedCodesRefusedForTheRun :
    (0xA ≤ (Command.mk 0x0A .f0).op.toNat ∧ ({ State.reset with pending := [.issue ⟨0x0A, .f0⟩] } : State).pending =
      [.issue ⟨0x0A, .f0⟩]) ∧ (Command.mk 0x10 .f0).rsv ≠ 0 ∧ (Command.mk 0xFF .f0).rsv ≠ 0 := by decide

theorem witness_StepRunsTheDecodedInstruction :
    ({ State.reset with pending := [.issue ⟨0x01, .fb 7⟩] } : State).pending = [.issue ⟨0x01, .fb 7⟩] ∧
      decode ⟨0x01, .fb 7⟩ = .ok (.decodeByte 7) := ⟨rfl, rfl⟩

theorem witness_IdleBlockHoldsItsState : completeHello.pending = [] := rfl

theorem witness_OverlappingOperationsRefused :
    ({ State.reset with pending := [.overlap ⟨0x00, .f0⟩ ⟨0x03, .f0⟩] } : State).pending =
      .overlap ⟨0x00, .f0⟩ ⟨0x03, .f0⟩ :: [] := rfl

theorem witness_ConfigurationNeverChanges :
    exec .reset completeHello = .next (nextOr (exec .reset completeHello) State.reset) ∧
      step (State.reset.withFetchWord 8 0) = .next (nextOr (step (State.reset.withFetchWord 8 0)) State.reset) :=
  ⟨rfl, rfl⟩

/-- Both statuses of ResetIdempotence's and FramingFaultHandling's hypotheses. -/
theorem witness_ResetIdempotence :
    resultOf (exec (.decodeByte 0xB3) markerB0) = some (.status .errorInvalidMarker) ∧
      resultOf (exec (.decodeByte 0x01) (inSize [0x04])) = some (.status .errorPayloadTooLarge) := by decide

theorem witness_OutOfRangeByteChangesNothing : ((-1 : Int) < 0) ∧ ((255 : Int) < 256) := by decide

theorem witness_CompleteArmStartsNextFrame : completeHello.dec.phase = .complete ∧ completeHello.Inv ∧
    (13 ≤ completeHello.epoch) := by decide

/-- One state for each of the three cases. -/
theorem witness_MarkerArm : State.reset.dec.phase = .awaitingMarker ∧ State.reset.dec.markerBuf.length + 1 < 2 ∧
    markerB0.dec.phase = .awaitingMarker ∧ ¬ markerB0.dec.markerBuf.length + 1 < 2 ∧
    markerB0.dec.markerBuf ++ [0xB2] = [hi8 markerB0.cfg.sop, lo8 markerB0.cfg.sop] ∧
    markerB0.dec.markerBuf ++ [0xB3] ≠ [hi8 markerB0.cfg.sop, lo8 markerB0.cfg.sop] := by decide

theorem witness_TypeAndCountArms : inType.dec.phase = .awaitingType ∧ inType.dec.typeBuf.length + 1 = 2 ∧
    inCount.dec.phase = .awaitingCount ∧ inCount.dec.countBuf.length + 1 ≠ 2 := by decide

/-- The first size byte, then sizes 1025, 0 and 1024. -/
theorem witness_SizeArm : (inSize []).dec.phase = .awaitingSize ∧ (inSize []).dec.sizeBuf.length + 1 < 2 ∧
    (inSize [4]).dec.sizeBuf ++ [1] = 4 :: 1 :: [] ∧ (inSize [4]).cfg.maxPayload.val < 4 * 256 + 1 ∧
    (inSize [0]).dec.sizeBuf ++ [0] = 0 :: 0 :: [] ∧
    (inSize [4]).dec.sizeBuf ++ [0] = 4 :: 0 :: [] ∧ ¬ (inSize [4]).cfg.maxPayload.val < 4 * 256 + 0 := by decide

theorem witness_PayloadArm : (inPayload [1, 2, 3, 4]).dec.phase = .awaitingPayload ∧ (inPayload [1, 2, 3, 4]).Inv ∧
    (inPayload [1, 2, 3, 4]).dec.payloadBuf.length + 1 = (inPayload [1, 2, 3, 4]).dec.expectedPayloadSize.toNat ∧
    (inPayload [1]).dec.payloadBuf.length + 1 ≠ (inPayload [1]).dec.expectedPayloadSize.toNat := by decide

theorem witness_DecodeByteWritesOnlyThePhaseBuffer : (inPayload [1]).dec.phase ≠ .complete ∧
    resultOf (exec (.decodeByte 9) (inPayload [1])) = some (.status .inProgress) ∧
    resultOf (exec (.decodeByte 9) (inPayload [1, 2, 3, 4])) = some (.status .success) := by decide

theorem witness_FramingFaultHandling :
    resultOf (exec (.decodeByte 256) (inPayload [1])) = some (.status .errorNullOrInvalidParam) ∧
    resultOf (exec (.decodeByte 0xB3) markerB0) = some (.status .errorInvalidMarker) ∧
    resultOf (exec (.decodeBuffer (some [7, 4, 1]) 1) (inSize [])) = some (.statusIndex .errorPayloadTooLarge 3) := by
  decide

/-- An empty run of each kind, and an element whose status ends the run, ends it at the end, and lets it go on. -/
theorem witness_DecodeBufferRepeatsDecodeByte : ([1, 2] : List Int).length ≤ 2 ∧
    ([0xB0, 0xB3] : List Int)[1]? = some 0xB3 ∧
    resultOf (exec (.decodeByte 0xB3) markerB0) = some (.status .errorInvalidMarker) ∧
    ([0xB0] : List Int)[0]? = some 0xB0 ∧ 0 + 1 = ([0xB0] : List Int).length ∧
    resultOf (exec (.decodeByte 0xB0) State.reset) = some (.status .inProgress) ∧
    ([0xB0, 0xB2] : List Int)[0]? = some 0xB0 ∧ 0 + 1 < ([0xB0, 0xB2] : List Int).length := by decide

theorem witness_DecodeBufferReadsOnlyBeforeItsIndex : 0 < ([0xB0, 0xB3, 7] : List Int).length ∧
    resultOf (exec (.decodeBuffer (some [0xB0, 0xB3, 7]) 0) State.reset) = some (.statusIndex .errorInvalidMarker 2) := by
  decide

theorem witness_GetPacketOperation :
    ¬ ((inPayload [1]).dec.phase = .complete ∧ (inPayload [1]).dec.headerComplete = true) ∧
    completeHello.dec.phase = .complete ∧ completeHello.dec.headerComplete = true ∧
    completeHello.dec.markerBuf = [0xB0, 0xB2] ∧ completeHello.dec.typeBuf = [1, 3] ∧
    completeHello.dec.countBuf = [0, 1] ∧ completeHello.Inv := by decide

theorem witness_EpochCountsResetsAndConsumedBytes :
    resultOf (exec .getPacket completeHello) = some (.retrieved (some ⟨hello, 13⟩)) ∧
    (Instr.encode hello).opcode ≠ .reset ∧ (Instr.encode hello).opcode ≠ .decodeByte ∧
    (Instr.encode hello).opcode ≠ .decodeBuffer ∧ (12 ≠ completeHello.epoch) := by decide

theorem witness_StaleRetrievedPacketReadFaults :
    ({ completeHello with pending := [.readPacket ⟨hello, 13⟩ .count] } : State).pending =
      .readPacket ⟨hello, 13⟩ .count :: [] ∧ 13 = completeHello.epoch ∧ 12 ≠ completeHello.epoch := by decide

/-! Payloads of exactly the cap, and the empty one. -/

theorem witness_PktNewBuildsThePacket : ([1, 2] : List Byte).length ≤ cap2.cfg.maxPayload.val := by decide
theorem witness_PktSetPayloadReplacesThePayload : ([] : List Byte).length ≤ cap2.cfg.maxPayload.val ∧
    ([1, 2] : List Byte).length ≤ cap2.cfg.maxPayload.val := by decide
theorem witness_EncodeEmitsTheFrame : hello.payload.length ≤ State.reset.cfg.maxPayload.val ∧
    ([1, 2] : List Byte).length ≤ cap2.cfg.maxPayload.val := by decide

/-- One byte above the cap, and an operation that raised. -/
theorem witness_OverlongPayloadsAreRaised : cap2.cfg.maxPayload.val < ([1, 2, 3] : List Byte).length ∧
    resultOf (exec (.encodeRaw 0 0 [1, 2, 3]) cap2) = some (.raised (.payloadTooLarge 3)) := by decide

theorem witness_EncoderIsPure : completeHello.cfg = markerB0.cfg ∧ completeHello ≠ markerB0 := by decide

theorem witness_PacketAndEncoderOperationsTouchNoBlockState :
    Instr.getPacket.opcode ∈ [Opcode.getPacket, .encode, .encodeRaw, .pktNew, .pktSetType, .pktSetCount, .pktSetPayload] ∧
      exec .getPacket completeHello = .next (nextOr (exec .getPacket completeHello) State.reset) :=
  ⟨by decide, rfl⟩

theorem witness_BuiltPacketsAreWithinTheCap :
    resultOf (exec (.pktSetType hello 9) State.reset) = some (.packet { hello with type := 9 }) ∧
      packetOperand (.pktSetType hello 9) = some hello ∧ packetSize hello ≤ State.reset.cfg.maxPayload.val := by decide

theorem witness_EveryStepKeepsTheReachableStateInvariant :
    ({ completeHello with pending := [.issue ⟨0x01, .fb 0xB0⟩] } : State).Inv ∧
      step { completeHello with pending := [.issue ⟨0x01, .fb 0xB0⟩] } =
        .next (nextOr (step { completeHello with pending := [.issue ⟨0x01, .fb 0xB0⟩] }) State.reset) :=
  ⟨by decide, rfl⟩

/-- A state of every row of R25's table. -/
theorem witness_NoInputEscalates : State.reset.Inv ∧ markerB0.Inv ∧ inType.Inv ∧ inCount.Inv ∧ (inSize [4]).Inv ∧
    (inPayload [1]).Inv ∧ completeHello.Inv := by decide

theorem witness_ErrorOverflowIsNeverReturned :
    resultOf (exec (.decodeBuffer (some [0xB0, 0xB3]) 0) State.reset) = some (.statusIndex .errorInvalidMarker 2) := by
  decide

/-- DB-11's first pairs, and EN-2's legal frame. -/
theorem witness_ResynchronizationInWholePairs : (withDecoder Decoder.reset 4).dec = State.reset.dec ∧
    (∀ p ∈ [((0x00 : Byte), (0xB0 : Byte)), (0xB2, 0x01)],
      [p.1, p.2] ≠ [hi8 State.reset.cfg.sop, lo8 State.reset.cfg.sop]) ∧
    legalFrame {} [0xB0, 0xB2, 0xAB, 0xCD, 0xFF, 0xFF, 0x00, 0x00] = true := by
  refine ⟨by decide, fun p hp => ?_, by decide⟩
  simp only [List.mem_cons, List.not_mem_nil, or_false] at hp
  rcases hp with rfl | rfl <;> decide

/-- Size 1025, at both kinds of frame boundary. -/
theorem witness_OversizedHeaderRejectedAtEighthByte : State.reset.Inv ∧ State.reset.AtFrameBoundary ∧
    completeHello.Inv ∧ completeHello.AtFrameBoundary ∧
    completeHello.cfg.maxPayload.val < (0x04 : Byte).toNat * 256 + (0x01 : Byte).toNat := by decide

theorem witness_ZeroLengthFrame : completeHello.Inv ∧ completeHello.AtFrameBoundary ∧
    (inSize [0]).dec.phase = .awaitingSize ∧ (inSize [0]).dec.sizeBuf = [0] := by decide

/-- EN-8's frame and a pair that is not the marker. -/
theorem witness_StatusSequenceOfAFrame : completeHello.Inv ∧ completeHello.AtFrameBoundary ∧
    legalFrame completeHello.cfg [0xB0, 0xB2, 0x00, 0x01, 0x00, 0x01, 0x00, 0x02, 0xB0, 0xB2] = true ∧
    [(0xB2 : Byte), 0xB0] ≠ [hi8 completeHello.cfg.sop, lo8 completeHello.cfg.sop] := by decide

theorem witness_EncodeThenDecodeRoundTrip : completeHello.Inv ∧ completeHello.AtFrameBoundary ∧
    hello.payload.length ≤ completeHello.cfg.maxPayload.val := by decide

theorem witness_BackToBackFramesInOneBuffer : State.reset.Inv ∧ State.reset.AtFrameBoundary ∧
    hello.payload.length ≤ State.reset.cfg.maxPayload.val ∧ ([0x48, 0x69] : List Byte).length ≤ 1024 := by decide

end Sys2Proof.Tests
end

section
/-! Proofs for 00_scope.md: the field arithmetic of R9 and R11, a step by a decoded command (R13), and the configuration
and host actions that no operation writes (R7, R34). -/

namespace Sys2Proof.Machine

/-! ## Field arithmetic (R9, R11) -/

/-- Assembling a word's two halves gives the word back, so `be16` and the split are inverse (R9). -/
@[simp] theorem be16_hi8_lo8 (v : Word) : be16 (hi8 v) (lo8 v) = v := by
  apply BitVec.eq_of_toNat_eq
  rw [be16_toNat, hi8_toNat, lo8_toNat]
  exact Nat.div_add_mod' v.toNat 256

/-- The remainder is below `2 ^ 16`, so the word holds it whole (R11). -/
theorem mask16_toNat (v : Int) : ((mask16 v).toNat : Int) = v % 65536 := by
  simp only [mask16, BitVec.toNat_ofNat]
  omega

/-- Masking is taking the low 16 bits in two's complement, at negative integers too (D16). -/
theorem mask16_eq_ofInt (v : Int) : mask16 v = BitVec.ofInt 16 v := by
  have hword : ((BitVec.ofInt 16 v).toNat : Int) = v % 65536 := by
    rw [BitVec.toNat_ofInt]
    omega
  apply BitVec.eq_of_toNat_eq
  have hmask := mask16_toNat v
  omega

/-! ## What an operation and a step leave of the host's side -/

/-- A command that decodes is its instruction (R59). -/
theorem runCommand_of_decode {c : Command} {i : Instr} (h : decode c = .ok i) (s : State) :
    runCommand c s = exec i s := by
  simp only [runCommand, h]

/-- Every operation answers: it delivers a result in a state with the configuration and the pending actions it began
with (R7, R34). Only the three decoder operations reach another state than their own. -/
theorem exec_answers (i : Instr) (s : State) :
    ∃ u r, exec i s = .next (State.respond u r) ∧ u.cfg = s.cfg ∧ u.pending = s.pending := by
  have same : (∃ r, exec i s = .next (s.respond r)) →
      ∃ u r, exec i s = .next (State.respond u r) ∧ u.cfg = s.cfg ∧ u.pending = s.pending :=
    fun ⟨r, h⟩ => ⟨s, r, h, rfl, rfl⟩
  cases i with
  | reset => exact ⟨_, _, rfl, rfl, rfl⟩
  | decodeByte v => exact ⟨_, _, rfl, consumeByte_cfg v s, consumeByte_pending v s⟩
  | decodeBuffer buf offset =>
    obtain h | ⟨xs, -, -, h⟩ := exec_decodeBuffer_cases buf offset s
    · exact same ⟨_, h⟩
    · exact ⟨_, _, h, consumeRun_cfg _ _ s, consumeRun_pending _ _ s⟩
  | getPacket => exact same ⟨_, rfl⟩
  | encode p => exact same (deliver_answers _ _ s)
  | encodeRaw t c pl => exact same (deliver_answers _ _ s)
  | pktNew t c pl => exact same (deliver_answers _ _ s)
  | pktSetType p v => exact same ⟨_, rfl⟩
  | pktSetCount p v => exact same ⟨_, rfl⟩
  | pktSetPayload p pl => exact same (deliver_answers _ _ s)

/-- No operation writes the configuration or the host's actions (R7, R34). -/
theorem exec_keeps_host {i : Instr} {s t : State} (h : exec i s = .next t) :
    t.cfg = s.cfg ∧ t.pending = s.pending := by
  obtain ⟨u, r, hu, hcfg, hpending⟩ := exec_answers i s
  rw [hu] at h
  cases h
  exact ⟨hcfg, hpending⟩

/-- No action of the host writes them either: a command is an operation, a read only answers, an overlap is refused. -/
theorem runAction_keeps_host {a : HostAction} {s t : State} (h : runAction a s = .next t) :
    t.cfg = s.cfg ∧ t.pending = s.pending := by
  cases a with
  | issue c =>
    cases hd : decode c with
    | ok i => exact exec_keeps_host ((runCommand_of_decode hd s).symm.trans h)
    | error e =>
      simp only [runAction, runCommand, hd] at h
      cases h
  | readPacket q f =>
    simp only [runAction, readRetrieved] at h
    split at h
    · cases h
      exact ⟨rfl, rfl⟩
    · cases h
  | overlap c d => cases h

/-- A step keeps the configuration and takes the oldest action from the host's list, if there is one (R7, log 1). -/
theorem step_keeps_cfg_takes_action {s t : State} (h : step s = .next t) :
    t.cfg = s.cfg ∧ t.pending = s.pending.tail := by
  cases hp : s.pending with
  | nil =>
    rw [step_idle hp] at h
    cases h
    exact ⟨rfl, hp⟩
  | cons a rest =>
    rw [step_action hp] at h
    exact runAction_keeps_host h

/-! ## The obligations -/

/-- Settles O13: every operation ends by answering in a state with the same host side, and a step is one action of the
host or none. -/
theorem configurationNeverChanges : Obligations.ConfigurationNeverChanges :=
  ⟨fun _ _ _ h => exec_keeps_host h, fun _ _ h => step_keeps_cfg_takes_action h⟩

/-- Settles O1, from the values of `be16`, `hi8` and `lo8` as natural numbers. -/
theorem bigEndianAssemblyAndSplit : Obligations.BigEndianAssemblyAndSplit :=
  ⟨be16_toNat, fun v => ⟨hi8_toNat v, lo8_toNat v, be16_hi8_lo8 v⟩⟩

/-- Settles O2, by the remainder fitting a word. -/
theorem maskIsEuclideanRemainder : Obligations.MaskIsEuclideanRemainder :=
  fun v => ⟨mask16_toNat v, mask16_eq_ofInt v⟩

/-- Settles O9: the oldest action is the command, and the command is its instruction. -/
theorem stepRunsTheDecodedInstruction : Obligations.StepRunsTheDecodedInstruction := by
  intro s c i rest hp hd
  calc step s
    _ = runCommand c (s.withPending rest) := step_action hp
    _ = exec i (s.withPending rest) := runCommand_of_decode hd _

end Sys2Proof.Machine
end

section
/-! Proofs for 10_state.md: what each phase's arm, an operation and a step can do, said once; the reachable-state
invariant (R25) and its consequences; the frame of DECODE_BYTE (R16, R22, R23); how the epoch counts (R33). -/

namespace Sys2Proof.Machine

/-! ## What each phase's arm can do (R87 to R91) -/

/-- The first marker byte waits; the second completes the marker or is a framing fault. -/
theorem markerArm_cases (cfg : Config) (b : Byte) (d : Decoder) :
    (d.markerBuf = [] ∧
      markerArm cfg b d = ({ d with markerBuf := d.markerBuf ++ [b] }, .inProgress)) ∨
    (d.markerBuf ++ [b] = sopBytes cfg ∧
      markerArm cfg b d = ({ d with markerBuf := d.markerBuf ++ [b], phase := .awaitingType }, .inProgress)) ∨
    markerArm cfg b d = (Decoder.reset, .errorInvalidMarker) := by
  simp only [markerArm, List.length_append, List.length_singleton]
  split
  · exact .inl ⟨List.eq_nil_of_length_eq_zero (by omega), rfl⟩
  · split
    · exact .inr (.inl ⟨‹_›, rfl⟩)
    · exact .inr (.inr rfl)

theorem typeArm_eq (b : Byte) (d : Decoder) :
    typeArm b d = ({ d with
      typeBuf := d.typeBuf ++ [b]
      phase := if d.typeBuf.length + 1 = 2 then .awaitingCount else d.phase }, .inProgress) := by
  simp only [typeArm, List.length_append, List.length_singleton]
  split <;> rfl

theorem countArm_eq (b : Byte) (d : Decoder) :
    countArm b d = ({ d with
      countBuf := d.countBuf ++ [b]
      phase := if d.countBuf.length + 1 = 2 then .awaitingSize else d.phase }, .inProgress) := by
  simp only [countArm, List.length_append, List.length_singleton]
  split <;> rfl

theorem validateSize_cases (cfg : Config) (n : Word) (d : Decoder) :
    validateSize cfg n d = (Decoder.reset, .errorPayloadTooLarge) ∨
    (n = 0 ∧ validateSize cfg n d = ({ d.latchHeader n with phase := .complete }, .success)) ∨
    (n ≠ 0 ∧ n.toNat ≤ cfg.maxPayload.val ∧
      validateSize cfg n d = ({ d.latchHeader n with phase := .awaitingPayload }, .inProgress)) := by
  unfold validateSize
  split
  · exact .inl rfl
  · next hcap =>
    split
    · exact .inr (.inl ⟨‹_›, rfl⟩)
    · exact .inr (.inr ⟨‹_›, by simpa [exceedsCap] using hcap, rfl⟩)

/-- The first size byte waits; from the second on, the size validator decides. -/
theorem sizeArm_cases (cfg : Config) (b : Byte) (d : Decoder) :
    (d.sizeBuf = [] ∧ sizeArm cfg b d = ({ d with sizeBuf := d.sizeBuf ++ [b] }, .inProgress)) ∨
    ∃ b0 b1 l, d.sizeBuf ++ [b] = b0 :: b1 :: l ∧
      sizeArm cfg b d = validateSize cfg (be16 b0 b1) { d with sizeBuf := d.sizeBuf ++ [b] } := by
  cases hz : d.sizeBuf with
  | nil => exact .inl ⟨rfl, by simp [sizeArm, hz]⟩
  | cons z zs =>
    cases zs with
    | nil => exact .inr ⟨z, b, [], rfl, by simp [sizeArm, hz]⟩
    | cons z' zs => exact .inr ⟨z, z', zs ++ [b], rfl, by simp [sizeArm, hz]⟩

theorem payloadArm_cases (b : Byte) (d : Decoder) :
    (d.payloadBuf.length + 1 = d.expectedPayloadSize.toNat ∧
      payloadArm b d = ({ d with payloadBuf := d.payloadBuf ++ [b], phase := .complete }, .success)) ∨
    (d.payloadBuf.length + 1 ≠ d.expectedPayloadSize.toNat ∧
      payloadArm b d = ({ d with payloadBuf := d.payloadBuf ++ [b] }, .inProgress)) := by
  simp only [payloadArm, List.length_append, List.length_singleton]
  split
  · exact .inl ⟨‹_›, rfl⟩
  · exact .inr ⟨‹_›, rfl⟩

/-! ## What an operation and a step can do -/

/-- What an operation does to the state: it only answers, or it is RESET, an in-range or refused byte of DECODE_BYTE,
or a run of DECODE_BUFFER. -/
theorem exec_cases (i : Instr) (s : State) :
    (∃ r, exec i s = .next (s.respond r)) ∨
    (i = .reset ∧ exec i s = .next ((s.commit Decoder.reset).respond .done)) ∨
    (∃ v, i = .decodeByte v ∧ exec i s = .next ((consumeByte v s).1.respond (.status (consumeByte v s).2))) ∨
    (∃ xs offset, i = .decodeBuffer (some xs) offset ∧ exec i s =
      .next ((consumeRun (xs.drop offset) offset s).1.respond (.statusIndex
        (consumeRun (xs.drop offset) offset s).2.1 (consumeRun (xs.drop offset) offset s).2.2))) := by
  cases i with
  | reset => exact .inr (.inl ⟨rfl, rfl⟩)
  | decodeByte v => exact .inr (.inr (.inl ⟨v, rfl, rfl⟩))
  | decodeBuffer buf offset =>
    obtain h | ⟨xs, rfl, -, h⟩ := exec_decodeBuffer_cases buf offset s
    · exact .inl ⟨_, h⟩
    · exact .inr (.inr (.inr ⟨xs, offset, rfl, h⟩))
  | getPacket => exact .inl ⟨_, rfl⟩
  | encode p => exact .inl (deliver_answers _ _ s)
  | encodeRaw t c pl => exact .inl (deliver_answers _ _ s)
  | pktNew t c pl => exact .inl (deliver_answers _ _ s)
  | pktSetType p v => exact .inl ⟨_, rfl⟩
  | pktSetCount p v => exact .inl ⟨_, rfl⟩
  | pktSetPayload p pl => exact .inl (deliver_answers _ _ s)

/-- A host read succeeds only at the packet's own tag, and then only answers (R127). -/
theorem readRetrieved_cases (q : Retrieved) (f : PacketField) (s : State) :
    (q.tag = s.epoch ∧ readRetrieved q f s = .next (s.respond (.field (packetField q.packet f)))) ∨
    (q.tag ≠ s.epoch ∧ readRetrieved q f s = .fault .stalePacket) := by
  unfold readRetrieved
  split
  · exact .inl ⟨‹_›, rfl⟩
  · exact .inr ⟨‹_›, rfl⟩

/-- An action that goes on is a command's operation, or it only answers. -/
theorem runAction_cases {a : HostAction} {s t : State} (h : runAction a s = .next t) :
    (∃ c i, a = .issue c ∧ decode c = .ok i ∧ exec i s = .next t) ∨ ∃ r, t = s.respond r := by
  cases a with
  | issue c =>
    cases hd : decode c with
    | ok i => exact .inl ⟨c, i, rfl, hd, (runCommand_of_decode hd s).symm.trans h⟩
    | error e =>
      simp only [runAction, runCommand, hd] at h
      cases h
  | readPacket q f =>
    obtain ⟨-, hread⟩ | ⟨-, hread⟩ := readRetrieved_cases q f s
    · cases hread.symm.trans h
      exact .inr ⟨_, rfl⟩
    · cases hread.symm.trans h
  | overlap c d => cases h

/-! ## The reachable-state invariant (R25) -/

theorem Decoder.reset_rowHolds (cfg : Config) : Decoder.reset.rowHolds cfg = true := by
  simp [Decoder.rowHolds]

/-- At creation the decoder has its reset values, whatever the configuration (R124). -/
theorem State.creation_inv (cfg : Config) : (State.creation cfg).Inv :=
  Decoder.reset_rowHolds cfg

section Rows

variable {cfg : Config} {d : Decoder}

theorem markerArm_keeps_row (hp : d.phase = .awaitingMarker) (h : d.rowHolds cfg = true) (b : Byte) :
    (markerArm cfg b d).1.rowHolds cfg = true := by
  simp only [Decoder.rowHolds, hp, decide_eq_true_eq] at h
  obtain ⟨-, htype, hcount, hsize, hpayload, hexp, hflag⟩ := h
  obtain ⟨hempty, he⟩ | ⟨hsop, he⟩ | he := markerArm_cases cfg b d <;> rw [he]
  · simp [Decoder.rowHolds, hp, hempty, htype, hcount, hsize, hpayload, hexp, hflag]
  · simp [Decoder.rowHolds, hsop, htype, hcount, hsize, hpayload, hexp, hflag]
  · exact Decoder.reset_rowHolds cfg

theorem typeArm_keeps_row (hp : d.phase = .awaitingType) (h : d.rowHolds cfg = true) (b : Byte) :
    (typeArm b d).1.rowHolds cfg = true := by
  simp only [Decoder.rowHolds, hp, decide_eq_true_eq] at h
  obtain ⟨hmarker, hlen, hcount, hsize, hpayload, hexp, hflag⟩ := h
  rw [typeArm_eq]
  by_cases hfull : d.typeBuf.length + 1 = 2
  · simp [Decoder.rowHolds, hfull, hmarker, hcount, hsize, hpayload, hexp, hflag]
  · have hempty : d.typeBuf = [] := List.eq_nil_of_length_eq_zero (by omega)
    simp [Decoder.rowHolds, hp, hempty, hmarker, hcount, hsize, hpayload, hexp, hflag]

theorem countArm_keeps_row (hp : d.phase = .awaitingCount) (h : d.rowHolds cfg = true) (b : Byte) :
    (countArm b d).1.rowHolds cfg = true := by
  simp only [Decoder.rowHolds, hp, decide_eq_true_eq] at h
  obtain ⟨hmarker, htype, hlen, hsize, hpayload, hexp, hflag⟩ := h
  rw [countArm_eq]
  by_cases hfull : d.countBuf.length + 1 = 2
  · simp [Decoder.rowHolds, hfull, hmarker, htype, hsize, hpayload, hexp, hflag]
  · have hempty : d.countBuf = [] := List.eq_nil_of_length_eq_zero (by omega)
    simp [Decoder.rowHolds, hp, hempty, hmarker, htype, hsize, hpayload, hexp, hflag]

/-- The row bounds the size buffer to one byte, so the validated size is the value of the two bytes it then holds. -/
theorem sizeArm_keeps_row (hp : d.phase = .awaitingSize) (h : d.rowHolds cfg = true) (b : Byte) :
    (sizeArm cfg b d).1.rowHolds cfg = true := by
  simp only [Decoder.rowHolds, hp, decide_eq_true_eq] at h
  obtain ⟨hmarker, htype, hcount, hlen, hpayload, hexp, hflag⟩ := h
  obtain ⟨hempty, he⟩ | ⟨b0, b1, l, hbuf, he⟩ := sizeArm_cases cfg b d <;> rw [he]
  · simp [Decoder.rowHolds, hp, hempty, hmarker, htype, hcount, hpayload, hexp, hflag]
  · have hl : l = [] := by
      have := congrArg List.length hbuf
      simp only [List.length_append, List.length_cons, List.length_nil] at this
      exact List.eq_nil_of_length_eq_zero (by omega)
    rw [hbuf, hl]
    obtain hv | ⟨hn, hv⟩ | ⟨hn, hcap, hv⟩ :=
      validateSize_cases cfg (be16 b0 b1) { d with sizeBuf := [b0, b1] } <;> rw [hv]
    · exact Decoder.reset_rowHolds cfg
    · simp [Decoder.rowHolds, wordOf, hn, hmarker, htype, hcount, hpayload]
    · have hpos : 0 < (be16 b0 b1).toNat := Nat.pos_of_ne_zero fun h0 => hn (BitVec.eq_of_toNat_eq h0)
      simp [Decoder.rowHolds, wordOf, hmarker, htype, hcount, hpayload, hcap, Order.one_le_iff_pos, hpos]

theorem payloadArm_keeps_row (hp : d.phase = .awaitingPayload) (h : d.rowHolds cfg = true) (b : Byte) :
    (payloadArm b d).1.rowHolds cfg = true := by
  simp only [Decoder.rowHolds, hp, decide_eq_true_eq] at h
  obtain ⟨hmarker, htype, hcount, hsize, hlen, hpos, hcap, hflag⟩ := h
  obtain ⟨hfull, he⟩ | ⟨hfull, he⟩ := payloadArm_cases b d <;> rw [he]
  · simp [Decoder.rowHolds, hmarker, htype, hcount, hsize, hfull, hcap, hflag]
  · have hroom : d.payloadBuf.length + 1 < d.expectedPayloadSize.toNat := by omega
    simp [Decoder.rowHolds, hp, hmarker, htype, hcount, hsize, hroom, hpos, hcap, hflag]

/-- In Complete the marker arm starts from the reset fields, which are in their row. -/
theorem dispatchByte_keeps_row (h : d.rowHolds cfg = true) (b : Byte) :
    (dispatchByte cfg b d).1.rowHolds cfg = true := by
  unfold dispatchByte
  split <;> rename_i hp
  · exact markerArm_keeps_row hp h b
  · exact typeArm_keeps_row hp h b
  · exact countArm_keeps_row hp h b
  · exact sizeArm_keeps_row hp h b
  · exact payloadArm_keeps_row hp h b
  · exact markerArm_keeps_row rfl (Decoder.reset_rowHolds cfg) b

end Rows

theorem consumeByte_keeps_inv {s : State} (h : s.Inv) (v : Int) : (consumeByte v s).1.Inv := by
  obtain hv | ⟨b, rfl⟩ := byte_or_out_of_range v
  · rwa [consumeByte_out_of_range hv]
  · rw [consumeByte_byte]
    exact dispatchByte_keeps_row h b

theorem consumeRun_keeps_inv {s : State} (h : s.Inv) (vs : List Int) (i : Nat) : (consumeRun vs i s).1.Inv := by
  induction vs generalizing i s with
  | nil => exact h
  | cons v vs ih =>
    have hv := consumeByte_keeps_inv h v
    by_cases hst : (consumeByte v s).2 = .inProgress
    · rw [consumeRun_goes_on hst]
      exact ih hv (i + 1)
    · rwa [consumeRun_stops hst]

theorem exec_keeps_inv {i : Instr} {s t : State} (h : s.Inv) (he : exec i s = .next t) : t.Inv := by
  obtain ⟨r, hr⟩ | ⟨-, hr⟩ | ⟨v, -, hr⟩ | ⟨xs, offset, -, hr⟩ := exec_cases i s <;> cases hr.symm.trans he
  · exact h
  · exact Decoder.reset_rowHolds s.cfg
  · exact consumeByte_keeps_inv h v
  · exact consumeRun_keeps_inv h (xs.drop offset) offset

theorem step_keeps_inv {s t : State} (h : s.Inv) (hs : step s = .next t) : t.Inv := by
  cases hp : s.pending with
  | nil =>
    cases (step_idle hp).symm.trans hs
    exact h
  | cons a rest =>
    have hrest : (s.withPending rest).Inv := h
    obtain ⟨c, i, -, -, he⟩ | ⟨r, rfl⟩ := runAction_cases ((step_action hp).symm.trans hs)
    · exact exec_keeps_inv hrest he
    · exact hrest

/-- Before the header is complete the row leaves the payload empty and the size latch at zero; afterwards it bounds
them by the cap (R25, R43). -/
theorem State.Inv.payload_bounds_and_flag {s : State} (h : s.Inv) :
    s.dec.payloadBuf.length ≤ s.dec.expectedPayloadSize.toNat ∧
    s.dec.expectedPayloadSize.toNat ≤ s.cfg.maxPayload.val ∧
    (s.dec.headerComplete = true ↔ (s.dec.phase = .awaitingPayload ∨ s.dec.phase = .complete)) := by
  unfold State.Inv Decoder.rowHolds at h
  split at h <;> rename_i hp <;> rw [decide_eq_true_eq] at h
  · obtain ⟨-, -, -, -, hpayload, hexp, hflag⟩ := h
    simp [hp, hpayload, hexp, hflag]
  · obtain ⟨-, -, -, -, hpayload, hexp, hflag⟩ := h
    simp [hp, hpayload, hexp, hflag]
  · obtain ⟨-, -, -, -, hpayload, hexp, hflag⟩ := h
    simp [hp, hpayload, hexp, hflag]
  · obtain ⟨-, -, -, -, hpayload, hexp, hflag⟩ := h
    simp [hp, hpayload, hexp, hflag]
  · obtain ⟨-, -, -, -, hlen, -, hcap, hflag⟩ := h
    exact ⟨hlen.le, hcap, by simp [hp, hflag]⟩
  · obtain ⟨-, -, -, -, hlen, hcap, hflag⟩ := h
    exact ⟨hlen.le, hcap, by simp [hp, hflag]⟩

/-! ## The frame of a dispatched byte (R16, R22, R23) -/

/-- `e` differs from `d` at most in the fields that the arm of `d`'s phase owns: its buffer, the phase, and in
AwaitingSize the size latch and the flag. -/
def Decoder.SameOutsidePhase (d e : Decoder) : Prop :=
  (d.phase ≠ .awaitingMarker → e.markerBuf = d.markerBuf) ∧
  (d.phase ≠ .awaitingType → e.typeBuf = d.typeBuf) ∧
  (d.phase ≠ .awaitingCount → e.countBuf = d.countBuf) ∧
  (d.phase ≠ .awaitingSize → e.sizeBuf = d.sizeBuf ∧ e.expectedPayloadSize = d.expectedPayloadSize ∧
    e.headerComplete = d.headerComplete) ∧
  (d.phase ≠ .awaitingPayload → e.payloadBuf = d.payloadBuf)

/-- Outside Complete a byte either ends in a framing fault or writes only what its phase's arm owns. -/
theorem dispatchByte_frame (cfg : Config) (b : Byte) {d : Decoder} (hc : d.phase ≠ .complete) :
    (dispatchByte cfg b d).2 = .errorInvalidMarker ∨ (dispatchByte cfg b d).2 = .errorPayloadTooLarge ∨
      d.SameOutsidePhase (dispatchByte cfg b d).1 := by
  unfold dispatchByte
  split <;> rename_i hp
  · obtain ⟨-, he⟩ | ⟨-, he⟩ | he := markerArm_cases cfg b d <;> simp [he, Decoder.SameOutsidePhase, hp]
  · simp [typeArm_eq, Decoder.SameOutsidePhase, hp]
  · simp [countArm_eq, Decoder.SameOutsidePhase, hp]
  · obtain ⟨-, he⟩ | ⟨b0, b1, l, -, he⟩ := sizeArm_cases cfg b d
    · simp [he, Decoder.SameOutsidePhase, hp]
    · rw [he]
      obtain hv | ⟨-, hv⟩ | ⟨-, -, hv⟩ :=
        validateSize_cases cfg (be16 b0 b1) { d with sizeBuf := d.sizeBuf ++ [b] } <;>
        rw [hv] <;> simp [Decoder.SameOutsidePhase, hp]
  · obtain ⟨-, he⟩ | ⟨-, he⟩ := payloadArm_cases b d <;> simp [he, Decoder.SameOutsidePhase, hp]
  · exact absurd hp hc

/-! ## How the epoch counts (R33) -/

theorem inRangeCount_out_of_range {v : Int} (h : v < 0 ∨ 255 < v) : inRangeCount [v] = 0 := by
  have hv : ¬ (0 ≤ v ∧ v ≤ 255) := by omega
  simp [inRangeCount, hv]

theorem inRangeCount_byte (b : Byte) : inRangeCount [(b.toNat : Int)] = 1 := by
  have hb : (b.toNat : Int) ≤ 255 := by
    have := b.isLt
    omega
  simp [inRangeCount, hb]

theorem inRangeCount_cons (v : Int) (vs : List Int) : inRangeCount (v :: vs) = inRangeCount [v] + inRangeCount vs := by
  simp only [inRangeCount, ← List.length_append, ← List.filter_append, List.singleton_append]

theorem consumeByte_epoch (v : Int) (s : State) : (consumeByte v s).1.epoch = s.epoch + inRangeCount [v] := by
  obtain hv | ⟨b, rfl⟩ := byte_or_out_of_range v
  · rw [consumeByte_out_of_range hv, inRangeCount_out_of_range hv, Nat.add_zero]
  · rw [consumeByte_byte, inRangeCount_byte, State.commit_epoch]

/-- A run consumes its first elements: the index moves by their number, the epoch by how many of them are in range. -/
theorem consumeRun_epoch (vs : List Int) (i : Nat) (s : State) :
    ∃ n, (consumeRun vs i s).2.2 = i + n ∧
      (consumeRun vs i s).1.epoch = s.epoch + inRangeCount (vs.take n) := by
  induction vs generalizing i s with
  | nil => exact ⟨0, rfl, rfl⟩
  | cons v vs ih =>
    have hv := consumeByte_epoch v s
    by_cases hst : (consumeByte v s).2 = .inProgress
    · obtain ⟨n, hindex, hepoch⟩ := ih (i + 1) (consumeByte v s).1
      refine ⟨n + 1, ?_, ?_⟩ <;> rw [consumeRun_goes_on hst]
      · omega
      · rw [hepoch, hv, List.take_succ_cons, inRangeCount_cons v (vs.take n), Nat.add_assoc]
    · exact ⟨1, by rw [consumeRun_stops hst], by rw [consumeRun_stops hst]; exact hv⟩

/-- A refused input consumes nothing: the returned index is the offset itself. -/
theorem exec_decodeBuffer_epoch (buf : Option (List Int)) (offset : Nat) (s : State) :
    ∃ t st k, exec (.decodeBuffer buf offset) s = .next t ∧ t.response = some (.statusIndex st k) ∧
      t.epoch = s.epoch + inRangeCount (((buf.getD []).take k).drop offset) := by
  obtain h | ⟨xs, rfl, -, h⟩ := exec_decodeBuffer_cases buf offset s
  · exact ⟨_, _, _, h, rfl, by simp [inRangeCount]⟩
  · obtain ⟨n, hindex, hepoch⟩ := consumeRun_epoch (xs.drop offset) offset s
    refine ⟨_, _, _, h, rfl, ?_⟩
    rw [State.respond_epoch, hepoch, hindex, Option.getD_some, List.drop_take, Nat.add_sub_cancel_left]

/-- The packet GET_PACKET returns carries the epoch of its return as its tag. -/
theorem retrievedPacket_tag {s : State} {q : Retrieved} (h : retrievedPacket s = some q) : q.tag = s.epoch := by
  unfold retrievedPacket at h
  split at h <;> cases h
  rfl

theorem getPacket_tag {s t : State} {q : Retrieved} (he : exec .getPacket s = .next t)
    (hr : t.response = some (.retrieved (some q))) : q.tag = s.epoch := by
  cases he
  exact retrievedPacket_tag (by simpa using hr)

/-- Only RESET and the two decode operations count the epoch. -/
theorem exec_keeps_epoch {i : Instr} {s t : State} (hreset : i.opcode ≠ .reset) (hbyte : i.opcode ≠ .decodeByte)
    (hbuffer : i.opcode ≠ .decodeBuffer) (he : exec i s = .next t) : t.epoch = s.epoch := by
  obtain ⟨r, hr⟩ | ⟨rfl, -⟩ | ⟨v, rfl, -⟩ | ⟨xs, offset, rfl, -⟩ := exec_cases i s
  · cases hr.symm.trans he
    rfl
  · exact absurd rfl hreset
  · exact absurd rfl hbyte
  · exact absurd rfl hbuffer

theorem readRetrieved_stale {q : Retrieved} {s : State} (h : q.tag ≠ s.epoch) (f : PacketField) :
    readRetrieved q f s = .fault .stalePacket := by
  obtain ⟨htag, -⟩ | ⟨-, hread⟩ := readRetrieved_cases q f s
  · exact absurd htag h
  · exact hread

/-! ## The obligations -/

/-- Settles O40: every arm keeps the row of R25 it is entered in, so every byte, run, operation and step does. -/
theorem everyStepKeepsTheReachableStateInvariant : Obligations.EveryStepKeepsTheReachableStateInvariant :=
  ⟨State.creation_inv, fun _ _ h hs => step_keeps_inv h hs, fun _ h => h.payload_bounds_and_flag⟩

/-- Settles O41: the reset state is the creation state of the default configuration. -/
theorem resetStateSatisfiesTheInvariant : Obligations.ResetStateSatisfiesTheInvariant :=
  ⟨State.creation_inv {}, .inl ⟨rfl, rfl⟩⟩

/-- Settles O23: the byte is one dispatch, and a dispatch that returns InProgress or Success is no framing fault. -/
theorem decodeByteWritesOnlyThePhaseBuffer : Obligations.DecodeByteWritesOnlyThePhaseBuffer := by
  intro s t b hc he hst
  rw [exec_decodeByte_byte] at he
  cases he
  have hframe : s.dec.SameOutsidePhase (dispatchByte s.cfg b s.dec).1 := by
    obtain hfault | hfault | hframe := dispatchByte_frame s.cfg b hc
    · simp [hfault] at hst
    · simp [hfault] at hst
    · exact hframe
  exact ⟨rfl, rfl, rfl, hframe⟩

/-- Settles O29: a byte counts when it is in range, a run counts the elements it consumed, and no other operation but RESET
commits a decoder. -/
theorem epochCountsResetsAndConsumedBytes : Obligations.EpochCountsResetsAndConsumedBytes :=
  ⟨rfl, fun _ => ⟨_, rfl, rfl⟩, fun s v => ⟨_, rfl, consumeByte_epoch v s⟩,
    fun s buf offset => exec_decodeBuffer_epoch buf offset s, fun _ _ _ he hr => getPacket_tag he hr,
    fun _ _ _ hreset hbyte hbuffer he => exec_keeps_epoch hreset hbyte hbuffer he,
    fun _ _ f h => readRetrieved_stale h f⟩

end Sys2Proof.Machine
end

section
/-! Proofs for 20_memory.md: how far a DECODE_BUFFER run reads (R52, R100), and overlapping operations (R47). -/

namespace Sys2Proof.Machine

/-! ## How far a run reads (R52, R100) -/

/-- Everything a run can do: use up its elements with InProgress throughout, or stop past a nonempty prefix, which alone
decides the run's state, status and index, whatever follows it. -/
theorem consumeRun_cases (vs : List Int) (i : Nat) (s : State) :
    (consumeRun vs i s).2 = (.inProgress, i + vs.length) ∨
    ∃ read rest, vs = read ++ rest ∧ read ≠ [] ∧ (consumeRun vs i s).2.1 ≠ .inProgress ∧
      (consumeRun vs i s).2.2 = i + read.length ∧
      ∀ ys, consumeRun (read ++ ys) i s = consumeRun vs i s := by
  induction vs generalizing i s with
  | nil => exact .inl rfl
  | cons v vs ih =>
    by_cases hst : (consumeByte v s).2 = .inProgress
    · rw [consumeRun_goes_on hst]
      obtain hall | ⟨read, rest, rfl, -, hstatus, hindex, hsame⟩ := ih (i + 1) (consumeByte v s).1
      · left
        rw [hall, List.length_cons, Nat.add_right_comm, Nat.add_assoc]
      · refine .inr ⟨v :: read, rest, rfl, List.cons_ne_nil _ _, hstatus, ?_, fun ys => ?_⟩
        · rw [hindex, List.length_cons]
          omega
        · rw [List.cons_append, consumeRun_goes_on hst, hsame]
    · rw [consumeRun_stops hst]
      exact .inr ⟨[v], vs, rfl, List.cons_ne_nil _ _, hst, rfl, fun ys => consumeRun_stops hst ys i⟩

/-- With the offset inside the buffer DECODE_BUFFER is the run from the offset on (R93). -/
theorem exec_decodeBuffer_run {xs : List Int} {offset : Nat} (h : offset < xs.length) (s : State) :
    exec (.decodeBuffer (some xs) offset) s =
      .next ((consumeRun (xs.drop offset) offset s).1.respond (.statusIndex
        (consumeRun (xs.drop offset) offset s).2.1 (consumeRun (xs.drop offset) offset s).2.2)) := by
  have hinside : ¬ (xs.length = 0 ∨ xs.length ≤ offset) := by omega
  simp only [exec, execDecodeBuffer, if_neg hinside, finish_eq]

/-- What the run from the offset on starts with, when the elements past those it read are replaced. -/
theorem drop_take_append_of_drop_eq {xs read rest : List Int} {offset : Nat} (hoff : offset ≤ xs.length)
    (hdrop : xs.drop offset = read ++ rest) (ys : List Int) :
    (xs.take (offset + read.length) ++ ys).drop offset = read ++ ys := by
  have hlen : offset ≤ (xs.take (offset + read.length)).length := by
    rw [List.length_take]
    omega
  rw [List.drop_append_of_le_length hlen, List.drop_take, Nat.add_sub_cancel_left, hdrop, List.take_left]

/-! ## The obligations -/

/-- Settles O26: the run from the offset on is used up, or it stops past a prefix that alone decides it. -/
theorem decodeBufferReadsOnlyBeforeItsIndex : Obligations.DecodeBufferReadsOnlyBeforeItsIndex := by
  intro s xs offset h
  refine ⟨_, _, _, exec_decodeBuffer_run h s, rfl, ?_⟩
  have hlength : (xs.drop offset).length = xs.length - offset := List.length_drop
  obtain hall | ⟨read, rest, hdrop, hread, hstatus, hindex, hsame⟩ := consumeRun_cases (xs.drop offset) offset s
  · rw [hall]
    exact ⟨by omega, by omega, fun _ => by omega, fun hne => absurd rfl hne⟩
  · have hpos : 0 < read.length := List.length_pos_iff.2 hread
    rw [hdrop, List.length_append] at hlength
    refine ⟨by omega, by omega, fun hp => absurd hp hstatus, fun _ ys => ?_⟩
    have hin : offset < (xs.take (offset + read.length) ++ ys).length := by
      rw [List.length_append, List.length_take]
      omega
    rw [hindex, exec_decodeBuffer_run hin, drop_take_append_of_drop_eq h.le hdrop, hsame, hindex]

/-- Settles O11: the step at an overlap is refused, and a refusal stays for the run. -/
theorem overlappingOperationsRefused : Obligations.OverlappingOperationsRefused :=
  fun _ _ _ _ k hp => run_of_refused core (step_action hp) k

end Sys2Proof.Machine
end

section
/-! Proofs for 30_encoding.md: commands and their instructions (R60 to R62), port codes (R63, R64), ENCODE_RAW (R68),
the statuses an operation returns (R70, R98), and the frame header fed byte by byte (R56, R90). -/

namespace Sys2Proof

/-! ## A command's code and operands (R60, R61) -/

/-- The row a code selects is in the table, and the code is its pattern: every row looks at the whole code. -/
theorem lookupCode_eq_some {code : Byte} {row : OpcodeRow} (h : lookupCode code = some row) :
    row ∈ opcodeTable ∧ code = row.pattern := by
  have hmem : row ∈ opcodeTable := List.mem_of_find?_eq_some h
  have hselects : row.selects code = true := List.find?_some (p := fun r : OpcodeRow => r.selects code) h
  rw [OpcodeRow.selects, (opcodeTable_rows row hmem).1, BitVec.and_allOnes] at hselects
  exact ⟨hmem, beq_iff_eq.1 hselects⟩

/-- No operation has two rows (R61). -/
theorem opcodeTable_opcode_unique : ∀ r ∈ opcodeTable, ∀ q ∈ opcodeTable, r.opcode = q.opcode → r = q := by
  decide

theorem codeAssigned (i : Instr) : Laws.CodeAssigned.Statement i := by
  cases i with
  | reset => exact Laws.CodeAssigned.reset
  | decodeByte v => exact Laws.CodeAssigned.decodeByte v
  | decodeBuffer buf offset => exact Laws.CodeAssigned.decodeBuffer buf offset
  | getPacket => exact Laws.CodeAssigned.getPacket
  | encode p => exact Laws.CodeAssigned.encode p
  | encodeRaw t c pl => exact Laws.CodeAssigned.encodeRaw t c pl
  | pktNew t c pl => exact Laws.CodeAssigned.pktNew t c pl
  | pktSetType p v => exact Laws.CodeAssigned.pktSetType p v
  | pktSetCount p v => exact Laws.CodeAssigned.pktSetCount p v
  | pktSetPayload p pl => exact Laws.CodeAssigned.pktSetPayload p pl

/-- Only its own code selects the row of an instruction's operation. -/
theorem code_eq_encode_code {code : Byte} {row : OpcodeRow} {i : Instr} (h : lookupCode code = some row)
    (hop : row.opcode = i.opcode) : code = (encode i).code := by
  obtain ⟨own, hown, hopcode, -⟩ := codeAssigned i
  obtain ⟨hmem, hcode⟩ := lookupCode_eq_some h
  obtain ⟨hmem', hcode'⟩ := lookupCode_eq_some hown
  rw [hcode, hcode', opcodeTable_opcode_unique row hmem own hmem' (hop.trans hopcode.symm)]

theorem assemble_encode (i : Instr) : assemble i.opcode (encode i).operands = some i := by
  cases i <;> rfl

/-- Assembling keeps the operation and every operand, so both can be read off the instruction. -/
theorem assemble_eq_some {op : Opcode} {x : Operands} {i : Instr} (h : assemble op x = some i) :
    op = i.opcode ∧ x = (encode i).operands := by
  unfold assemble at h
  split at h <;> cases h <;> exact ⟨rfl, rfl⟩

theorem decode_encode (i : Instr) : decode (encode i) = .ok i := by
  obtain ⟨row, hrow, hop, -⟩ := codeAssigned i
  simp only [decode, hrow, hop, assemble_encode]

/-- What a command that decodes is made of: a code of the table and operands its operation takes. -/
theorem decode_eq_ok {c : Command} {i : Instr} (h : decode c = .ok i) :
    ∃ row, lookupCode c.code = some row ∧ assemble row.opcode c.operands = some i := by
  unfold decode at h
  split at h
  · cases h
  · next row hrow =>
    split at h <;> cases h
    exact ⟨row, hrow, ‹_›⟩

theorem eq_encode_of_decode {c : Command} {i : Instr} (h : decode c = .ok i) : c = encode i := by
  obtain ⟨row, hrow, hassemble⟩ := decode_eq_ok h
  obtain ⟨hop, hoperands⟩ := assemble_eq_some hassemble
  have hcode : c.code = (encode i).code := code_eq_encode_code hrow hop
  calc c
    _ = ⟨c.code, c.operands⟩ := rfl
    _ = encode i := by rw [hcode, hoperands]

/-! ## Reserved codes (R62) -/

theorem Command.rsv_toNat (c : Command) : c.rsv.toNat = c.code.toNat / 16 := by
  have h := c.code.isLt
  simp only [Command.rsv, BitVec.extractLsb'_toNat, Nat.shiftRight_eq_div_pow]
  omega

theorem Command.op_toNat (c : Command) : c.op.toNat = c.code.toNat % 16 := by
  simp [Command.op, BitVec.extractLsb'_toNat]

/-- Either mark of a reserved command puts its code above the last assigned one. -/
theorem Command.reserved_code {c : Command} (h : c.rsv ≠ 0 ∨ 0xA ≤ c.op.toNat) : 10 ≤ c.code.toNat := by
  obtain hrsv | hop := h
  · have hpos : c.rsv.toNat ≠ 0 := fun h0 => hrsv (BitVec.eq_of_toNat_eq h0)
    rw [Command.rsv_toNat] at hpos
    omega
  · rw [Command.op_toNat] at hop
    omega

theorem decode_reserved {c : Command} (h : 10 ≤ c.code.toNat) : decode c = .error (.reservedCode c.code) := by
  simp only [decode, lookupCode_reserved h]

end Sys2Proof

namespace Sys2Proof.Machine

/-- A command that decodes to nothing is refused (R62, U13). -/
theorem runCommand_of_reject {c : Command} {e : DecodeReject} (h : decode c = .error e) (s : State) :
    runCommand c s = .refused (refusalOf e) := by
  simp only [runCommand, h]

/-! ## Port codes (R63, R64) -/

theorem Status.ofCode_eq_some (c : BitVec 3) (st : Status) : Status.ofCode c = some st ↔ c = st.code := by
  constructor
  · intro h
    unfold Status.ofCode at h
    split at h <;> cases h <;> exact BitVec.eq_of_toNat_eq ‹_›
  · rintro rfl
    cases st <;> rfl

theorem Phase.ofCode_eq_some (c : BitVec 3) (ph : Phase) : Phase.ofCode c = some ph ↔ c = ph.code := by
  constructor
  · intro h
    unfold Phase.ofCode at h
    split at h <;> cases h <;> exact BitVec.eq_of_toNat_eq ‹_›
  · rintro rfl
    cases ph <;> rfl

/-! ## ENCODE_RAW (R68) -/

/-- A result delivered before is replaced, so it makes no difference to what is delivered. -/
theorem deliver_respond {α : Type} (f : α → Response) (x : Except ConstructionFault α) (s : State) (r : Response) :
    deliver f x (s.respond r) = deliver f x s := by
  cases x <;> rfl

theorem encodeRaw_after_pktNew (s : State) (t c : Int) (pl : List Byte) :
    ∃ u, exec (.pktNew t c pl) s = .next u ∧
      ((∃ p, u.response = some (.packet p) ∧ exec (.encodeRaw t c pl) s = exec (.encode p) u) ∨
        (∃ f, u.response = some (.raised f) ∧ exec (.encodeRaw t c pl) s = .next u)) := by
  simp only [exec, execPktNew, execEncodeRaw, execEncode]
  cases buildPacket s.cfg t c pl with
  | ok p => exact ⟨_, rfl, .inl ⟨p, rfl, (deliver_respond _ _ s _).symm⟩⟩
  | error f => exact ⟨_, rfl, .inr ⟨f, rfl, rfl⟩⟩

/-! ## The statuses an operation returns (R70, R98) -/

/-- The status a result carries, alone or with an index. -/
def Response.statusOf : Response → Option Status
  | .status st => some st
  | .statusIndex st _ => some st
  | _ => none

/-- DECODE_BYTE returns no ErrorOverflow: no arm does, and the range check has a status of its own. -/
theorem consumeByte_ne_errorOverflow (v : Int) (s : State) : (consumeByte v s).2 ≠ .errorOverflow := by
  obtain hv | ⟨b, rfl⟩ := byte_or_out_of_range v
  · simp [consumeByte_out_of_range hv]
  · rw [consumeByte_byte]
    obtain ⟨st, hd, ⟨rfl, -⟩ | ⟨rfl, -⟩⟩ | ⟨e, hd, -⟩ | ⟨e, hd⟩ := dispatchByte_cases s.cfg b s.dec <;>
      simp [hd]

/-- A run's status is that of the last element it consumed. -/
theorem consumeRun_status {vs : List Int} (hne : vs ≠ []) (i : Nat) (s : State) :
    ∃ v ∈ vs, ∃ s', (consumeByte v s').2 = (consumeRun vs i s).2.1 := by
  induction vs generalizing i s with
  | nil => exact absurd rfl hne
  | cons v vs ih =>
    by_cases hst : (consumeByte v s).2 = .inProgress
    · rw [consumeRun_goes_on hst]
      cases vs with
      | nil => exact ⟨v, List.mem_cons_self, s, hst⟩
      | cons w ws =>
        obtain ⟨x, hx, s', hs'⟩ := ih (List.cons_ne_nil w ws) (i + 1) (consumeByte v s).1
        exact ⟨x, List.mem_cons_of_mem v hx, s', hs'⟩
    · rw [consumeRun_stops hst]
      exact ⟨v, List.mem_cons_self, s, rfl⟩

/-- DECODE_BUFFER answers with a status and an index: the status of an empty input, or that of an element. -/
theorem decodeBuffer_status {buf : Option (List Int)} {offset : Nat} {s t : State}
    (he : exec (.decodeBuffer buf offset) s = .next t) :
    ∃ st k, t.response = some (.statusIndex st k) ∧ (st = .errorNullOrInvalidParam ∨
      ∃ xs v s', buf = some xs ∧ v ∈ xs ∧ (consumeByte v s').2 = st) := by
  obtain h | ⟨xs, rfl, hoff, h⟩ := exec_decodeBuffer_cases buf offset s <;> cases h.symm.trans he
  · exact ⟨_, _, rfl, .inl rfl⟩
  · have hne : xs.drop offset ≠ [] := by
      rw [Ne, List.drop_eq_nil_iff]
      omega
    obtain ⟨v, hv, s', hs'⟩ := consumeRun_status hne offset s
    exact ⟨_, _, rfl, .inr ⟨xs, v, s', rfl, List.mem_of_mem_drop hv, hs'⟩⟩

/-- Raising or returning a value without a status, an operation of this shape returns none. -/
theorem deliver_statusOf {α : Type} {f : α → Response} {x : Except ConstructionFault α} {s t : State}
    (hf : ∀ a, (f a).statusOf = none) (h : deliver f x s = .next t) : t.response.bind Response.statusOf = none := by
  cases x <;> cases h
  · rfl
  · exact hf _

/-- A status an operation returns is that of an empty input, or one DECODE_BYTE returns. -/
theorem exec_status {i : Instr} {s t : State} {st : Status} (he : exec i s = .next t)
    (hst : t.response.bind Response.statusOf = some st) :
    st = .errorNullOrInvalidParam ∨ ∃ v s', (consumeByte v s').2 = st := by
  have returns_none (h : t.response.bind Response.statusOf = none) :
      st = .errorNullOrInvalidParam ∨ ∃ v s', (consumeByte v s').2 = st := by
    rw [h] at hst
    cases hst
  cases i with
  | reset =>
    cases he
    exact returns_none rfl
  | decodeByte v =>
    cases he
    cases hst
    exact .inr ⟨v, s, rfl⟩
  | decodeBuffer buf offset =>
    obtain ⟨st', k, hr, hsource⟩ := decodeBuffer_status he
    rw [hr] at hst
    cases hst
    exact hsource.imp_right fun ⟨_, v, s', _, _, hv⟩ => ⟨v, s', hv⟩
  | getPacket =>
    cases he
    exact returns_none rfl
  | encode p => exact returns_none (deliver_statusOf (fun _ => rfl) he)
  | encodeRaw t c pl => exact returns_none (deliver_statusOf (fun _ => rfl) he)
  | pktNew t c pl => exact returns_none (deliver_statusOf (fun _ => rfl) he)
  | pktSetType p v =>
    cases he
    exact returns_none rfl
  | pktSetCount p v =>
    cases he
    exact returns_none rfl
  | pktSetPayload p pl => exact returns_none (deliver_statusOf (fun _ => rfl) he)

theorem exec_ne_errorOverflow {i : Instr} {s t : State} (he : exec i s = .next t) :
    t.response.bind Response.statusOf ≠ some .errorOverflow := by
  intro hst
  obtain h | ⟨v, s', hv⟩ := exec_status he hst
  · cases h
  · exact consumeByte_ne_errorOverflow v s' hv

/-! ## A frame's header, byte by byte (R56, R87 to R90) -/

/-- The bytes dispatched in order: the statuses and the decoder after them. `feed_eq_dispatchAll` ties it to
DECODE_BYTE. -/
def dispatchAll (cfg : Config) : List Byte → Decoder → List Status × Decoder
  | [], d => ([], d)
  | b :: bs, d =>
    ((dispatchByte cfg b d).2 :: (dispatchAll cfg bs (dispatchByte cfg b d).1).1,
      (dispatchAll cfg bs (dispatchByte cfg b d).1).2)

/-- Feeding bytes is dispatching them: only the decoder, the epoch and the last result change. -/
theorem feed_eq_dispatchAll (bs : List Byte) (s : State) :
    ∃ t, feed bs s = some ((dispatchAll s.cfg bs s.dec).1, t) ∧ t.dec = (dispatchAll s.cfg bs s.dec).2 ∧
      t.cfg = s.cfg ∧ t.pending = s.pending ∧ t.epoch = s.epoch + bs.length := by
  induction bs generalizing s with
  | nil => exact ⟨s, rfl, rfl, rfl, rfl, rfl⟩
  | cons b bs ih =>
    obtain ⟨t, hfeed, hdec, hcfg, hpending, hepoch⟩ :=
      ih ((s.commit (dispatchByte s.cfg b s.dec).1).respond (.status (dispatchByte s.cfg b s.dec).2))
    refine ⟨t, ?_, hdec, hcfg, hpending, ?_⟩
    · rw [feed_cons, hfeed]
      rfl
    · rw [hepoch, List.length_cons, State.respond_epoch, State.commit_epoch]
      omega

theorem dispatchAll_append (cfg : Config) (bs cs : List Byte) (d : Decoder) :
    dispatchAll cfg (bs ++ cs) d =
      ((dispatchAll cfg bs d).1 ++ (dispatchAll cfg cs (dispatchAll cfg bs d).2).1,
        (dispatchAll cfg cs (dispatchAll cfg bs d).2).2) := by
  induction bs generalizing d with
  | nil => rfl
  | cons b bs ih => simp only [List.cons_append, dispatchAll, ih]

section Header

variable {cfg : Config} {d : Decoder}

/-- In its row, an AwaitingMarker decoder that holds no byte has every reset value (R25, R123). -/
theorem Decoder.eq_reset_of_row (h : d.rowHolds cfg = true) (hp : d.phase = .awaitingMarker)
    (hempty : d.markerBuf = []) : d = Decoder.reset := by
  simp only [Decoder.rowHolds, hp, decide_eq_true_eq] at h
  obtain ⟨-, htype, hcount, hsize, hpayload, hexp, hflag⟩ := h
  cases d
  rw [Decoder.reset, Decoder.mk.injEq]
  exact ⟨hp, hempty, htype, hcount, hsize, hpayload, hexp, hflag⟩

/-- At a frame boundary a byte is dispatched as from the reset fields: Complete resets first (R86). -/
theorem dispatchByte_at_boundary {s : State} (hinv : s.Inv) (hb : s.AtFrameBoundary) (b : Byte) :
    dispatchByte s.cfg b s.dec = dispatchByte s.cfg b Decoder.reset := by
  obtain ⟨hp, hempty⟩ | hp := hb
  · rw [Decoder.eq_reset_of_row hinv hp hempty]
  · simp only [dispatchByte, hp, Decoder.fullReset_eq, Decoder.reset_phase]

theorem dispatchAll_at_boundary {s : State} (hinv : s.Inv) (hb : s.AtFrameBoundary) (b : Byte) (bs : List Byte) :
    dispatchAll s.cfg (b :: bs) s.dec = dispatchAll s.cfg (b :: bs) Decoder.reset := by
  simp only [dispatchAll, dispatchByte_at_boundary hinv hb]

theorem dispatchAll_marker (hp : d.phase = .awaitingMarker) (hempty : d.markerBuf = []) :
    dispatchAll cfg [hi8 cfg.sop, lo8 cfg.sop] d =
      ([.inProgress, .inProgress], { d with markerBuf := sopBytes cfg, phase := .awaitingType }) := by
  simp [dispatchAll, dispatchByte, markerArm, hp, hempty, sopBytes, wireBytes]

theorem dispatchAll_type (hp : d.phase = .awaitingType) (hempty : d.typeBuf = []) (b0 b1 : Byte) :
    dispatchAll cfg [b0, b1] d =
      ([.inProgress, .inProgress], { d with typeBuf := [b0, b1], phase := .awaitingCount }) := by
  simp [dispatchAll, dispatchByte, typeArm_eq, hp, hempty]

theorem dispatchAll_count (hp : d.phase = .awaitingCount) (hempty : d.countBuf = []) (b0 b1 : Byte) :
    dispatchAll cfg [b0, b1] d =
      ([.inProgress, .inProgress], { d with countBuf := [b0, b1], phase := .awaitingSize }) := by
  simp [dispatchAll, dispatchByte, countArm_eq, hp, hempty]

theorem dispatchAll_size (hp : d.phase = .awaitingSize) (hempty : d.sizeBuf = []) (b0 b1 : Byte) :
    dispatchAll cfg [b0, b1] d =
      ([.inProgress, (validateSize cfg (be16 b0 b1) { d with sizeBuf := [b0, b1] }).2],
        (validateSize cfg (be16 b0 b1) { d with sizeBuf := [b0, b1] }).1) := by
  simp [dispatchAll, dispatchByte, sizeArm, hp, hempty]

end Header

/-- The decoder the size validator is given after a header with the marker. -/
def headerDecoder (cfg : Config) (t1 t0 c1 c0 z1 z0 : Byte) : Decoder :=
  { Decoder.reset with
    phase := .awaitingSize, markerBuf := sopBytes cfg, typeBuf := [t1, t0], countBuf := [c1, c0], sizeBuf := [z1, z0] }

/-- A header with the marker gives InProgress seven times; the size validator decides on its eighth byte. -/
theorem dispatchAll_header (cfg : Config) (t1 t0 c1 c0 z1 z0 : Byte) :
    dispatchAll cfg [hi8 cfg.sop, lo8 cfg.sop, t1, t0, c1, c0, z1, z0] Decoder.reset =
      (List.replicate 7 .inProgress ++ [(validateSize cfg (be16 z1 z0) (headerDecoder cfg t1 t0 c1 c0 z1 z0)).2],
        (validateSize cfg (be16 z1 z0) (headerDecoder cfg t1 t0 c1 c0 z1 z0)).1) := by
  have hsplit : [hi8 cfg.sop, lo8 cfg.sop, t1, t0, c1, c0, z1, z0] =
      [hi8 cfg.sop, lo8 cfg.sop] ++ ([t1, t0] ++ ([c1, c0] ++ [z1, z0])) := rfl
  rw [hsplit, dispatchAll_append, dispatchAll_marker rfl rfl, dispatchAll_append, dispatchAll_type rfl rfl,
    dispatchAll_append, dispatchAll_count rfl rfl, dispatchAll_size rfl rfl]
  rfl

theorem validateSize_exceeds {cfg : Config} {n : Word} (h : cfg.maxPayload.val < n.toNat) (d : Decoder) :
    validateSize cfg n d = (Decoder.reset, .errorPayloadTooLarge) := by
  simp [validateSize, exceedsCap_eq_true h, framingFault]

/-! ## The obligations -/

/-- Settles O7: a code and operands decode to an instruction only as its own, and each instruction's own do. -/
theorem decodeAgreesWithEncode : Obligations.DecodeAgreesWithEncode := by
  intro c i
  constructor
  · exact eq_encode_of_decode
  · rintro rfl
    exact decode_encode i

/-- Settles O8: either mark puts the code above the table's last, and a refusal stays for the run. -/
theorem reservedCodesRefusedForTheRun : Obligations.ReservedCodesRefusedForTheRun := by
  intro c hreserved
  have hdecode : decode c = .error (.reservedCode c.code) := decode_reserved (Command.reserved_code hreserved)
  refine ⟨hdecode, fun s rest k hp => ?_⟩
  have hstep : step s = .refused (.reservedCommand c.code) :=
    (step_action hp).trans (runCommand_of_reject hdecode (s.withPending rest))
  exact ⟨hstep, run_of_refused core hstep k⟩

/-- Settles O43: every status is a byte's or that of an empty input, and neither is ErrorOverflow. -/
theorem errorOverflowIsNeverReturned : Obligations.ErrorOverflowIsNeverReturned := by
  refine ⟨fun i s t he => ?_, fun s t buf offset k st he hr => ?_⟩
  · have hne := exec_ne_errorOverflow he
    exact ⟨fun hr => hne (by rw [hr]; rfl), fun k hr => hne (by rw [hr]; rfl)⟩
  · obtain ⟨st', k', hr', hsource⟩ := decodeBuffer_status he
    cases hr'.symm.trans hr
    exact hsource.imp_right fun ⟨xs, v, s', hbuf, hv, hst⟩ =>
      ⟨xs, v, s', _, hbuf, hv, rfl, congrArg (fun x => some (Response.status x)) hst⟩

/-- Settles O45: the eighth byte completes a size that the validator rejects. -/
theorem oversizedHeaderRejectedAtEighthByte : Obligations.OversizedHeaderRejectedAtEighthByte := by
  intro s t1 t0 c1 c0 z1 z0 hinv hboundary hsize
  rw [← be16_toNat] at hsize
  have hheader : dispatchAll s.cfg [hi8 s.cfg.sop, lo8 s.cfg.sop, t1, t0, c1, c0, z1, z0] s.dec =
      (List.replicate 7 .inProgress ++ [.errorPayloadTooLarge], Decoder.reset) := by
    rw [dispatchAll_at_boundary hinv hboundary, dispatchAll_header, validateSize_exceeds hsize]
  obtain ⟨t, hfeed, hdec, -⟩ := feed_eq_dispatchAll [hi8 s.cfg.sop, lo8 s.cfg.sop, t1, t0, c1, c0, z1, z0] s
  rw [hheader] at hfeed hdec
  exact ⟨t, hfeed, hdec⟩

/-- Settles O5: both code tables, and reading a code back. -/
theorem statusAndPhaseCodes : Obligations.StatusAndPhaseCodes :=
  ⟨rfl, rfl, Status.ofCode_eq_some, Phase.ofCode_eq_some⟩

/-- Settles O6: each of the ten commands is the encoding of its operation. -/
theorem commandCodesAsAssigned : Obligations.CommandCodesAsAssigned :=
  fun v t c buf offset p pl =>
    ⟨decode_encode .reset, decode_encode (.decodeByte v), decode_encode (.decodeBuffer buf offset),
      decode_encode .getPacket, decode_encode (.encode p), decode_encode (.encodeRaw t c pl),
      decode_encode (.pktNew t c pl), decode_encode (.pktSetType p v), decode_encode (.pktSetCount p v),
      decode_encode (.pktSetPayload p pl)⟩

/-- Settles O36: both operations build the packet first, and ENCODE reads only the configuration of its state. -/
theorem encodeRawIsPktNewThenEncode : Obligations.EncodeRawIsPktNewThenEncode :=
  fun s t c pl => ⟨decode_encode (.encodeRaw t c pl), encodeRaw_after_pktNew s t c pl⟩

end Sys2Proof.Machine
end

section
/-! Proofs for 40_packet.md: the packet operations as instructions (R72 to R75), the bound on the packets they return
(R76), packet equality (R77) and the printable predicate (R78). -/

namespace Sys2Proof.Machine

/-! ## The packet operations as instructions (R72 to R75) -/

theorem exec_pktNew_fits {s : State} {pl : List Byte} (t c : Int) (h : pl.length ≤ s.cfg.maxPayload.val) :
    exec (.pktNew t c pl) s = .next (s.respond (.packet ⟨s.cfg.sop, mask16 t, mask16 c, pl⟩)) := by
  rw [exec, execPktNew, buildPacket_fits t c h]
  rfl

theorem exec_pktSetType (p : Packet) (v : Int) (s : State) :
    exec (.pktSetType p v) s = .next (s.respond (.packet { p with type := mask16 v })) := rfl

theorem exec_pktSetCount (p : Packet) (v : Int) (s : State) :
    exec (.pktSetCount p v) s = .next (s.respond (.packet { p with count := mask16 v })) := rfl

theorem exec_pktSetPayload_fits {s : State} (p : Packet) {pl : List Byte} (h : pl.length ≤ s.cfg.maxPayload.val) :
    exec (.pktSetPayload p pl) s = .next (s.respond (.packet { p with payload := pl })) := by
  rw [exec, execPktSetPayload, replacePayload_fits p h]
  rfl

/-! ## Where a returned packet's payload comes from (R76) -/

/-- What is made of a checked payload is made of one that fits. -/
theorem checkPayload_map_eq_ok {α : Type} {cfg : Config} {pl : List Byte} {f : List Byte → α} {a : α}
    (h : (checkPayload cfg pl).map f = .ok a) : a = f pl ∧ pl.length ≤ cfg.maxPayload.val := by
  obtain hfits | hexceeds := le_or_gt pl.length cfg.maxPayload.val
  · rw [checkPayload_fits hfits] at h
    cases h
    exact ⟨rfl, hfits⟩
  · rw [checkPayload_exceeds hexceeds] at h
    cases h

theorem packetSize_le_of_buildPacket {cfg : Config} {t c : Int} {pl : List Byte} {q : Packet}
    (h : buildPacket cfg t c pl = .ok q) : packetSize q ≤ cfg.maxPayload.val := by
  obtain ⟨rfl, hfits⟩ := checkPayload_map_eq_ok h
  exact hfits

theorem packetSize_le_of_replacePayload {cfg : Config} {p q : Packet} {pl : List Byte}
    (h : replacePayload cfg p pl = .ok q) : packetSize q ≤ cfg.maxPayload.val := by
  obtain ⟨rfl, hfits⟩ := checkPayload_map_eq_ok h
  exact hfits

/-- What the result of an operation that raises or returns a value can be. -/
theorem deliver_response_cases {α : Type} {f : α → Response} {x : Except ConstructionFault α} {s t : State}
    {r : Response} (h : deliver f x s = .next t) (hr : t.response = some r) :
    (∃ a, x = .ok a ∧ r = f a) ∨ ∃ e, x = .error e ∧ r = .raised e := by
  cases x with
  | ok a =>
    cases h
    cases hr
    exact .inl ⟨a, rfl, rfl⟩
  | error e =>
    cases h
    cases hr
    exact .inr ⟨e, rfl, rfl⟩

/-- An operation that returns its value as a packet returns a packet only where it does not raise. -/
theorem deliver_packet {x : Except ConstructionFault Packet} {s t : State} {q : Packet}
    (h : deliver .packet x s = .next t) (hr : t.response = some (.packet q)) : x = .ok q := by
  obtain ⟨a, rfl, hq⟩ | ⟨e, -, hq⟩ := deliver_response_cases h hr <;> cases hq
  rfl

/-- An operation that returns its value as a frame returns no packet. -/
theorem deliver_frame_ne_packet {x : Except ConstructionFault (List Byte)} {s t : State}
    (h : deliver .frame x s = .next t) (q : Packet) : t.response ≠ some (.packet q) := by
  intro hr
  obtain ⟨a, -, hq⟩ | ⟨e, -, hq⟩ := deliver_response_cases h hr <;> cases hq

/-- A returned packet has the payload of the packet the operation was given, or one that passed the payload check. -/
theorem exec_packet_payload_cases {i : Instr} {s t : State} {q : Packet} (he : exec i s = .next t)
    (hr : t.response = some (.packet q)) :
    (∃ p, packetOperand i = some p ∧ q.payload = p.payload) ∨ packetSize q ≤ s.cfg.maxPayload.val := by
  cases i with
  | reset =>
    cases he
    cases hr
  | decodeByte v =>
    cases he
    cases hr
  | decodeBuffer buf offset =>
    obtain ⟨st, k, hstatus, -⟩ := decodeBuffer_status he
    cases hstatus.symm.trans hr
  | getPacket =>
    cases he
    cases hr
  | encode p => exact absurd hr (deliver_frame_ne_packet he q)
  | encodeRaw a c pl => exact absurd hr (deliver_frame_ne_packet he q)
  | pktNew a c pl => exact .inr (packetSize_le_of_buildPacket (deliver_packet he hr))
  | pktSetType p v =>
    cases he
    cases hr
    exact .inl ⟨p, rfl, rfl⟩
  | pktSetCount p v =>
    cases he
    cases hr
    exact .inl ⟨p, rfl, rfl⟩
  | pktSetPayload p pl => exact .inr (packetSize_le_of_replacePayload (deliver_packet he hr))

/-! ## Equality and the printable predicate (R77, R78) -/

theorem samePacket_iff (p q : Packet) :
    samePacket p q = true ↔ (p.type = q.type ∧ p.count = q.count ∧ p.payload = q.payload) := by
  simp only [samePacket, Bool.and_eq_true, beq_iff_eq, and_assoc]

theorem printable_iff (pl : List Byte) :
    printable pl = true ↔ ∀ b ∈ pl, 0x20 ≤ b.toNat ∧ b.toNat ≤ 0x7E := by
  simp only [printable, List.all_eq_true, decide_eq_true_eq]

/-! ## The obligations -/

/-- Settles O39: a returned packet's payload is its operand's, within the cap by hypothesis, or it passed the check. -/
theorem builtPacketsAreWithinTheCap : Obligations.BuiltPacketsAreWithinTheCap := by
  intro i s t q he hr hoperand
  obtain ⟨p, hp, hpayload⟩ | hchecked := exec_packet_payload_cases he hr
  · calc packetSize q
      _ = packetSize p := congrArg List.length hpayload
      _ ≤ s.cfg.maxPayload.val := hoperand p hp
  · exact hchecked

/-- Settles O3: equality compares the three fields and never the marker. -/
theorem packetEqualityIgnoresMarker : Obligations.PacketEqualityIgnoresMarker :=
  samePacket_iff

/-- Settles O4: the predicate checks each byte, and the empty payload has none. -/
theorem printableClassification : Obligations.PrintableClassification :=
  ⟨printable_iff, rfl⟩

/-- Settles O31: a payload that fits passes the check, and `mask16` is the remainder. -/
theorem pktNewBuildsThePacket : Obligations.PktNewBuildsThePacket :=
  fun _ t c _ hfits => ⟨_, exec_pktNew_fits t c hfits, rfl, mask16_toNat t, mask16_toNat c, rfl⟩

/-- Settles O32: each operation answers with its operand but for the one field, which `mask16` gives. -/
theorem pktSetTypeAndCount : Obligations.PktSetTypeAndCount :=
  ⟨fun p v => ⟨decode_encode (.pktSetType p v), decode_encode (.pktSetCount p v)⟩,
    fun s p v => ⟨_, exec_pktSetType p v s, mask16_toNat v, rfl, rfl, rfl⟩,
    fun s p v => ⟨_, exec_pktSetCount p v s, mask16_toNat v, rfl, rfl, rfl⟩⟩

/-- Settles O33: a payload that fits passes the check and takes the old one's place. -/
theorem pktSetPayloadReplacesThePayload : Obligations.PktSetPayloadReplacesThePayload :=
  fun _ p _ hfits => exec_pktSetPayload_fits p hfits

end Sys2Proof.Machine
end

section
/-! Proofs for 41_encoder.md: the frames ENCODE and ENCODE_RAW return (R79, R80), the encoder's independence of the block
(R81) and of its frame (R95), and a frame decoded back from a frame boundary (R82). -/

namespace Sys2Proof.Machine

/-! ## The frames the encoder returns (R79, R80) -/

theorem exec_encode_fits {s : State} {p : Packet} (h : p.payload.length ≤ s.cfg.maxPayload.val) :
    exec (.encode p) s = .next (s.respond (.frame (frameHeader s.cfg p ++ p.payload))) := by
  rw [exec, execEncode, encodeFrame_fits h]
  rfl

theorem exec_encodeRaw_fits {s : State} {pl : List Byte} (t c : Int) (h : pl.length ≤ s.cfg.maxPayload.val) :
    exec (.encodeRaw t c pl) s =
      .next (s.respond (.frame (frameHeader s.cfg ⟨s.cfg.sop, mask16 t, mask16 c, pl⟩ ++ pl))) := by
  rw [exec, execEncodeRaw, buildPacket_fits t c h, Except.bind, encodeFrame_fits h]
  rfl

/-- The size field holds a length within the cap whole, since the cap is below `2 ^ 16` (R5). -/
theorem sizeField_toNat {cfg : Config} {n : Nat} (h : n ≤ cfg.maxPayload.val) : (BitVec.ofNat 16 n).toNat = n := by
  have hcap := cfg.maxPayload.isLt
  rw [BitVec.toNat_ofNat]
  omega

/-! ## Independence of the block (R81) -/

/-- An operation of this shape returns the same result in every state. -/
theorem deliver_same_result {α : Type} (f : α → Response) (x : Except ConstructionFault α) (s s' : State) :
    ∃ r, deliver f x s = .next (s.respond r) ∧ deliver f x s' = .next (s'.respond r) := by
  cases x with
  | ok a => exact ⟨f a, rfl, rfl⟩
  | error e => exact ⟨.raised e, rfl, rfl⟩

/-- An operation that is neither RESET nor a decode operation only answers. -/
theorem exec_only_answers {i : Instr} (hreset : i.opcode ≠ .reset) (hbyte : i.opcode ≠ .decodeByte)
    (hbuffer : i.opcode ≠ .decodeBuffer) (s : State) : ∃ r, exec i s = .next (s.respond r) := by
  obtain h | ⟨rfl, -⟩ | ⟨v, rfl, -⟩ | ⟨xs, offset, rfl, -⟩ := exec_cases i s
  · exact h
  · exact absurd rfl hreset
  · exact absurd rfl hbyte
  · exact absurd rfl hbuffer

/-! ## A whole frame, byte by byte (R82, R90, R91) -/

theorem validateSize_zero (cfg : Config) (d : Decoder) :
    validateSize cfg 0 d = ({ d.latchHeader 0 with phase := .complete }, .success) := by
  simp [validateSize, exceedsCap]

theorem validateSize_fits {cfg : Config} {n : Word} (hn : n ≠ 0) (h : n.toNat ≤ cfg.maxPayload.val) (d : Decoder) :
    validateSize cfg n d = ({ d.latchHeader n with phase := .awaitingPayload }, .inProgress) := by
  rw [validateSize, exceedsCap_eq_false h, if_neg Bool.false_ne_true, if_neg hn]

theorem dispatchByte_last_payload_byte (cfg : Config) (b : Byte) {d : Decoder} (hp : d.phase = .awaitingPayload)
    (h : d.payloadBuf.length + 1 = d.expectedPayloadSize.toNat) :
    dispatchByte cfg b d = ({ d with payloadBuf := d.payloadBuf ++ [b], phase := .complete }, .success) := by
  simp [dispatchByte, payloadArm, hp, h]

theorem dispatchByte_payload_byte (cfg : Config) (b : Byte) {d : Decoder} (hp : d.phase = .awaitingPayload)
    (h : d.payloadBuf.length + 1 ≠ d.expectedPayloadSize.toNat) :
    dispatchByte cfg b d = ({ d with payloadBuf := d.payloadBuf ++ [b] }, .inProgress) := by
  simp [dispatchByte, payloadArm, hp, h]

/-- The payload bytes that fill the buffer up to its expected size: the last one completes the frame. -/
theorem dispatchAll_payload (cfg : Config) {d : Decoder} (hp : d.phase = .awaitingPayload) (b : Byte) (bs : List Byte)
    (hlen : d.payloadBuf.length + (b :: bs).length = d.expectedPayloadSize.toNat) :
    dispatchAll cfg (b :: bs) d =
      (List.replicate bs.length .inProgress ++ [.success],
        { d with payloadBuf := d.payloadBuf ++ b :: bs, phase := .complete }) := by
  induction bs generalizing b d with
  | nil =>
    rw [dispatchAll, dispatchByte_last_payload_byte cfg b hp hlen]
    rfl
  | cons b' bs ih =>
    simp only [List.length_cons] at hlen
    have hrest := ih (d := { d with payloadBuf := d.payloadBuf ++ [b] }) hp b' (by
      simp only [List.length_append, List.length_cons, List.length_nil]
      omega)
    rw [dispatchAll, dispatchByte_payload_byte cfg b hp (by omega), hrest, List.append_assoc, List.singleton_append]
    rfl

/-- The decoder after a whole frame. -/
def frameDecoder (cfg : Config) (t1 t0 c1 c0 z1 z0 : Byte) (pl : List Byte) : Decoder :=
  { (headerDecoder cfg t1 t0 c1 c0 z1 z0).latchHeader (be16 z1 z0) with phase := .complete, payloadBuf := pl }

/-- A frame whose size field is within the cap and tells its payload's length is taken whole: InProgress for every byte
but the last, Success for the last. Without a payload, the last byte is the header's. -/
theorem dispatchAll_frame {cfg : Config} {t1 t0 c1 c0 z1 z0 : Byte} {pl : List Byte}
    (hlen : (be16 z1 z0).toNat = pl.length) (hcap : pl.length ≤ cfg.maxPayload.val) :
    dispatchAll cfg ([hi8 cfg.sop, lo8 cfg.sop, t1, t0, c1, c0, z1, z0] ++ pl) Decoder.reset =
      (List.replicate (7 + pl.length) .inProgress ++ [.success], frameDecoder cfg t1 t0 c1 c0 z1 z0 pl) := by
  rw [dispatchAll_append, dispatchAll_header]
  cases pl with
  | nil =>
    have hz : be16 z1 z0 = 0 := BitVec.eq_of_toNat_eq hlen
    rw [frameDecoder, hz, validateSize_zero]
    rfl
  | cons b bs =>
    have hz : be16 z1 z0 ≠ 0 := fun h0 => by simp [h0] at hlen
    have hpayload := dispatchAll_payload cfg
      (d := { (headerDecoder cfg t1 t0 c1 c0 z1 z0).latchHeader (be16 z1 z0) with phase := .awaitingPayload })
      rfl b bs ((Nat.zero_add _).trans hlen.symm)
    rw [validateSize_fits hz (hlen.trans_le hcap), hpayload, ← List.append_assoc, ← List.replicate_succ',
      List.replicate_append_replicate, List.length_cons, Nat.add_comm bs.length 1, ← Nat.add_assoc 7 1 bs.length]
    rfl

/-- As `dispatchAll_frame`, through DECODE_BYTE from any frame boundary. -/
theorem feed_frame {s : State} (hinv : s.Inv) (hb : s.AtFrameBoundary) {t1 t0 c1 c0 z1 z0 : Byte} {pl : List Byte}
    (hlen : (be16 z1 z0).toNat = pl.length) (hcap : pl.length ≤ s.cfg.maxPayload.val) :
    ∃ t, feed ([hi8 s.cfg.sop, lo8 s.cfg.sop, t1, t0, c1, c0, z1, z0] ++ pl) s =
        some (List.replicate (7 + pl.length) .inProgress ++ [.success], t) ∧
      t.dec = frameDecoder s.cfg t1 t0 c1 c0 z1 z0 pl := by
  obtain ⟨t, hfeed, hdec, -⟩ := feed_eq_dispatchAll ([hi8 s.cfg.sop, lo8 s.cfg.sop, t1, t0, c1, c0, z1, z0] ++ pl) s
  rw [List.cons_append, dispatchAll_at_boundary hinv hb, ← List.cons_append, dispatchAll_frame hlen hcap] at hfeed hdec
  exact ⟨t, hfeed, hdec⟩

theorem exec_getPacket (s : State) : exec .getPacket s = .next (s.respond (.retrieved (retrievedPacket s))) := rfl

/-- After a whole frame GET_PACKET returns what the frame carries (R94). -/
theorem retrievedPacket_of_frame {s : State} {cfg : Config} {t1 t0 c1 c0 z1 z0 : Byte} {pl : List Byte}
    (h : s.dec = frameDecoder cfg t1 t0 c1 c0 z1 z0 pl) :
    retrievedPacket s = some ⟨⟨cfg.sop, be16 t1 t0, be16 c1 c0, pl⟩, s.epoch⟩ := by
  simp [retrievedPacket, fieldWord, fieldByte, fieldContents, h, frameDecoder, headerDecoder, sopBytes, wireBytes]

/-! ## The obligations -/

/-- Settles O48: ENCODE's size field tells the payload's length, so its bytes are a whole frame, and the two bytes of each
field assemble to the packet's. -/
theorem encodeThenDecodeRoundTrip : Obligations.EncodeThenDecodeRoundTrip := by
  intro s p hinv hboundary hcap
  obtain ⟨t, hfeed, hdec⟩ := feed_frame hinv hboundary (t1 := hi8 p.type) (t0 := lo8 p.type) (c1 := hi8 p.count)
    (c0 := lo8 p.count) (by rw [be16_hi8_lo8, sizeField_toNat hcap]) hcap
  have hstatuses : (frameHeader s.cfg p ++ p.payload).length - 1 = 7 + p.payload.length := by
    rw [List.length_append, frameHeader_length, Config.headerSize]
    omega
  have hget := retrievedPacket_of_frame hdec
  rw [be16_hi8_lo8, be16_hi8_lo8] at hget
  refine ⟨_, t, ⟨⟨s.cfg.sop, p.type, p.count, p.payload⟩, t.epoch⟩, exec_encode_fits hcap, ?_, ?_, rfl, rfl, rfl⟩
  · rw [hstatuses]
    exact hfeed
  · rw [exec_getPacket, hget]
    rfl

/-- Settles O38: of the ten operations only RESET and the two decode operations do more than answer. -/
theorem packetAndEncoderOperationsTouchNoBlockState : Obligations.PacketAndEncoderOperationsTouchNoBlockState := by
  intro i s t hi he
  have hother : i.opcode ≠ .reset ∧ i.opcode ≠ .decodeByte ∧ i.opcode ≠ .decodeBuffer := by
    refine ⟨?_, ?_, ?_⟩ <;> intro hop <;> rw [hop] at hi <;> exact absurd hi (by decide)
  obtain ⟨hreset, hbyte, hbuffer⟩ := hother
  obtain ⟨r, hr⟩ := exec_only_answers hreset hbyte hbuffer s
  cases hr.symm.trans he
  rfl

/-- Settles O34: the frame is the header's eight bytes, with the length as its size field, and the payload; ENCODE_RAW's
is that of the packet it builds. -/
theorem encodeEmitsTheFrame : Obligations.EncodeEmitsTheFrame :=
  ⟨fun _ _ hcap => ⟨_, sizeField_toNat hcap, exec_encode_fits hcap⟩,
    fun _ t c _ hcap => ⟨_, _, _, mask16_toNat t, mask16_toNat c, sizeField_toNat hcap, exec_encodeRaw_fits t c hcap⟩⟩

/-- Settles O37: both operations deliver a value that they compute from the configuration and their operands. -/
theorem encoderIsPure : Obligations.EncoderIsPure := by
  intro s s' hcfg
  refine ⟨fun p => ?_, fun t c pl => ?_⟩
  · have hencode : exec (.encode p) s' = deliver .frame (encodeFrame s.cfg p) s' := by rw [hcfg]; rfl
    rw [hencode]
    exact deliver_same_result .frame (encodeFrame s.cfg p) s s'
  · have hencode : exec (.encodeRaw t c pl) s' =
        deliver .frame ((buildPacket s.cfg t c pl).bind (encodeFrame s.cfg)) s' := by rw [hcfg]; rfl
    rw [hencode]
    exact deliver_same_result .frame ((buildPacket s.cfg t c pl).bind (encodeFrame s.cfg)) s s'

end Sys2Proof.Machine
end

section
/-! Proofs for 42_decoder.md: RESET (R84, R99), DECODE_BYTE in each phase (R85 to R91), DECODE_BUFFER (R93), GET_PACKET
(R94, R95), an idle block (R96), and the statuses of whole frames and of corrupt ones (R92, R101, R102). -/

namespace Sys2Proof.Machine

/-! ## GET_PACKET and staleness (R94, R127) -/

theorem retrievedPacket_incomplete {s : State} (h : ¬ (s.dec.phase = .complete ∧ s.dec.headerComplete = true)) :
    retrievedPacket s = none := by
  rw [retrievedPacket, if_neg h]

theorem retrievedPacket_complete {s : State} {m1 m0 t1 t0 c1 c0 : Byte} (hp : s.dec.phase = .complete)
    (hflag : s.dec.headerComplete = true) (hmarker : s.dec.markerBuf = [m1, m0]) (htype : s.dec.typeBuf = [t1, t0])
    (hcount : s.dec.countBuf = [c1, c0]) :
    retrievedPacket s = some ⟨⟨be16 m1 m0, be16 t1 t0, be16 c1 c0, s.dec.payloadBuf⟩, s.epoch⟩ := by
  simp [retrievedPacket, fieldWord, fieldByte, fieldContents, hp, hflag, hmarker, htype, hcount]

/-- Outside Complete GET_PACKET returns the absence indicator. -/
theorem exec_getPacket_incomplete {s : State} (hp : s.dec.phase ≠ .complete) :
    ∃ u, exec .getPacket s = .next u ∧ u.response = some (.retrieved none) := by
  have hnone : retrievedPacket s = none := retrievedPacket_incomplete fun h => hp h.1
  exact ⟨_, exec_getPacket s, by rw [hnone]; rfl⟩

/-- Once the epoch has counted, every packet retrieved before is stale. -/
theorem readRetrieved_after_count {q : Retrieved} {s t : State} (ht : t.epoch = s.epoch + 1) (hq : q.tag ≤ s.epoch)
    (f : PacketField) : readRetrieved q f t = .fault .stalePacket :=
  readRetrieved_stale (by omega) f

/-- In Complete, R25's row fills the marker with `SOP` and the type and count with two bytes each. -/
theorem State.Inv.complete_fields {s : State} (h : s.Inv) (hp : s.dec.phase = .complete) :
    s.dec.markerBuf = sopBytes s.cfg ∧ s.dec.typeBuf.length = 2 ∧ s.dec.countBuf.length = 2 ∧
      s.dec.headerComplete = true := by
  simp only [State.Inv, Decoder.rowHolds, hp, decide_eq_true_eq] at h
  obtain ⟨hmarker, htype, hcount, -, -, -, hflag⟩ := h
  exact ⟨hmarker, htype, hcount, hflag⟩

/-- In AwaitingPayload, R25's row leaves room in the buffer and bounds its size by the cap. -/
theorem State.Inv.awaitingPayload_room {s : State} (h : s.Inv) (hp : s.dec.phase = .awaitingPayload) :
    s.dec.payloadBuf.length < s.dec.expectedPayloadSize.toNat ∧
      s.dec.expectedPayloadSize.toNat ≤ s.cfg.maxPayload.val := by
  simp only [State.Inv, Decoder.rowHolds, hp, decide_eq_true_eq] at h
  obtain ⟨-, -, -, -, hroom, -, hcap, -⟩ := h
  exact ⟨hroom, hcap⟩

/-! ## DECODE_BYTE in each phase (R85 to R91) -/

/-- An in-range byte ends in what its dispatch says, the epoch counted once. -/
theorem exec_decodeByte_answers (s : State) (b : Byte) :
    ∃ t, exec (.decodeByte b.toNat) s = .next t ∧ t.epoch = s.epoch + 1 ∧ t.cfg = s.cfg ∧ t.pending = s.pending ∧
      t.response = some (.status (dispatchByte s.cfg b s.dec).2) ∧ t.dec = (dispatchByte s.cfg b s.dec).1 :=
  ⟨_, exec_decodeByte_byte b s, rfl, rfl, rfl, rfl, rfl⟩

theorem exec_decodeByte_of_dispatch {s : State} {b : Byte} {d : Decoder} {st : Status}
    (h : dispatchByte s.cfg b s.dec = (d, st)) :
    ∃ t, exec (.decodeByte b.toNat) s = .next t ∧ t.epoch = s.epoch + 1 ∧ t.cfg = s.cfg ∧ t.pending = s.pending ∧
      t.response = some (.status st) ∧ t.dec = d := by
  simpa only [h] using exec_decodeByte_answers s b

section Arms

variable {cfg : Config} {b : Byte} {d : Decoder}

theorem dispatchByte_awaitingMarker (hp : d.phase = .awaitingMarker) :
    dispatchByte cfg b d = markerArm cfg b d := by
  simp only [dispatchByte, hp]

theorem dispatchByte_awaitingType (hp : d.phase = .awaitingType) : dispatchByte cfg b d = typeArm b d := by
  simp only [dispatchByte, hp]

theorem dispatchByte_awaitingCount (hp : d.phase = .awaitingCount) : dispatchByte cfg b d = countArm b d := by
  simp only [dispatchByte, hp]

theorem dispatchByte_awaitingSize (hp : d.phase = .awaitingSize) : dispatchByte cfg b d = sizeArm cfg b d := by
  simp only [dispatchByte, hp]

/-- In AwaitingPayload every byte is appended, whether it completes the frame or not. -/
theorem dispatchByte_payloadBuf (hp : d.phase = .awaitingPayload) :
    (dispatchByte cfg b d).1.payloadBuf = d.payloadBuf ++ [b] := by
  simp only [dispatchByte, hp]
  obtain ⟨-, he⟩ | ⟨-, he⟩ := payloadArm_cases b d <;> rw [he]

/-- In Complete the byte is the first one of the next frame. -/
theorem dispatchByte_complete (hp : d.phase = .complete) :
    dispatchByte cfg b d = ({ Decoder.reset with markerBuf := [b] }, .inProgress) := by
  simp only [dispatchByte, hp]
  rfl

theorem markerArm_first (h : d.markerBuf.length + 1 < 2) :
    markerArm cfg b d = ({ d with markerBuf := d.markerBuf ++ [b] }, .inProgress) := by
  simp [markerArm, h]

theorem markerArm_sop (hlen : ¬ d.markerBuf.length + 1 < 2) (h : d.markerBuf ++ [b] = sopBytes cfg) :
    markerArm cfg b d = ({ d with markerBuf := d.markerBuf ++ [b], phase := .awaitingType }, .inProgress) := by
  rw [markerArm, if_neg (by simpa using hlen), if_pos h]

theorem markerArm_fault (hlen : ¬ d.markerBuf.length + 1 < 2)
    (h : d.markerBuf ++ [b] ≠ sopBytes cfg) :
    markerArm cfg b d = (Decoder.reset, .errorInvalidMarker) := by
  rw [markerArm, if_neg (by simpa using hlen), if_neg h]
  rfl

theorem sizeArm_first (h : d.sizeBuf.length + 1 < 2) :
    sizeArm cfg b d = ({ d with sizeBuf := d.sizeBuf ++ [b] }, .inProgress) := by
  have hempty : d.sizeBuf = [] := List.eq_nil_of_length_eq_zero (by omega)
  simp [sizeArm, hempty]

/-- From the second size byte on, the size validator decides on the first two. -/
theorem sizeArm_full {b0 b1 : Byte} {l : List Byte} (h : d.sizeBuf ++ [b] = b0 :: b1 :: l) :
    sizeArm cfg b d = validateSize cfg (be16 b0 b1) { d with sizeBuf := d.sizeBuf ++ [b] } := by
  simp only [sizeArm, h]

end Arms

/-- A byte whose status is a framing fault leaves the reset fields (R99, R105). -/
theorem consumeByte_framingFault {v : Int} {s : State}
    (h : (consumeByte v s).2 = .errorInvalidMarker ∨ (consumeByte v s).2 = .errorPayloadTooLarge) :
    (consumeByte v s).1.dec = Decoder.reset := by
  obtain hv | ⟨b, rfl⟩ := byte_or_out_of_range v
  · simp [consumeByte_out_of_range hv] at h
  · rw [consumeByte_byte] at h ⊢
    obtain ⟨st, hd, -⟩ | ⟨e, hd, -⟩ | ⟨e, hd⟩ := dispatchByte_cases s.cfg b s.dec <;> rw [hd] at h ⊢
    · rfl
    · simp at h
    · simp at h

/-! ## Whole frames and corrupt pairs (R92, R101, R102) -/

/-- What a legal frame is made of (R56). -/
theorem legalFrame_eq_append {cfg : Config} {f : List Byte} (h : legalFrame cfg f = true) :
    ∃ t1 t0 c1 c0 z1 z0 pl, f = [hi8 cfg.sop, lo8 cfg.sop, t1, t0, c1, c0, z1, z0] ++ pl ∧
      (be16 z1 z0).toNat = pl.length ∧ pl.length ≤ cfg.maxPayload.val := by
  unfold legalFrame at h
  split at h
  · next m1 m0 t1 t0 c1 c0 z1 z0 pl =>
    rw [decide_eq_true_eq] at h
    obtain ⟨hsop, hcap, hlen⟩ := h
    obtain ⟨rfl, rfl⟩ : m1 = hi8 cfg.sop ∧ m0 = lo8 cfg.sop := by simpa [sopBytes, wireBytes] using hsop
    exact ⟨t1, t0, c1, c0, z1, z0, pl, rfl, hlen.symm, hlen.trans_le hcap⟩
  · cases h

theorem feed_legalFrame {s : State} {f : List Byte} (hinv : s.Inv) (hb : s.AtFrameBoundary)
    (hf : legalFrame s.cfg f = true) :
    ∃ t, feed f s = some (List.replicate (f.length - 1) .inProgress ++ [.success], t) ∧ t.dec.phase = .complete := by
  obtain ⟨t1, t0, c1, c0, z1, z0, pl, rfl, hlen, hcap⟩ := legalFrame_eq_append hf
  obtain ⟨t, hfeed, hdec⟩ := feed_frame hinv hb hlen hcap
  have hstatuses : ([hi8 s.cfg.sop, lo8 s.cfg.sop, t1, t0, c1, c0, z1, z0] ++ pl).length - 1 = 7 + pl.length := by
    simp only [List.length_append, List.length_cons, List.length_nil]
    omega
  exact ⟨t, by rw [hstatuses, hfeed], by rw [hdec]; rfl⟩

/-- Two bytes that are not SOP: the marker is judged at the second, which resets. -/
theorem dispatchAll_badPair {cfg : Config} {b0 b1 : Byte} (h : [b0, b1] ≠ [hi8 cfg.sop, lo8 cfg.sop]) :
    dispatchAll cfg [b0, b1] Decoder.reset = ([.inProgress, .errorInvalidMarker], Decoder.reset) := by
  have hfirst : dispatchByte cfg b0 Decoder.reset = ({ Decoder.reset with markerBuf := [b0] }, .inProgress) :=
    markerArm_first (cfg := cfg) (d := Decoder.reset) (by decide)
  have hsecond : dispatchByte cfg b1 { Decoder.reset with markerBuf := [b0] } =
      (Decoder.reset, .errorInvalidMarker) :=
    markerArm_fault (d := { Decoder.reset with markerBuf := [b0] }) (by simp) h
  simp only [dispatchAll, hfirst, hsecond]

theorem dispatchAll_badPairs {cfg : Config} {pairs : List (Byte × Byte)}
    (h : ∀ p ∈ pairs, [p.1, p.2] ≠ [hi8 cfg.sop, lo8 cfg.sop]) :
    dispatchAll cfg (pairs.flatMap fun p => [p.1, p.2]) Decoder.reset =
      (pairs.flatMap fun _ => [.inProgress, .errorInvalidMarker], Decoder.reset) := by
  induction pairs with
  | nil => rfl
  | cons p pairs ih =>
    obtain ⟨hp, hpairs⟩ := List.forall_mem_cons.1 h
    rw [List.flatMap_cons, dispatchAll_append, dispatchAll_badPair hp, ih hpairs]
    rfl

theorem length_flatMap_pair (pairs : List (Byte × Byte)) :
    (pairs.flatMap fun p => [p.1, p.2]).length = 2 * pairs.length := by
  simp [List.length_flatMap, Nat.mul_comm]

/-! ## A whole frame through DECODE_BUFFER (R93) -/

theorem exec_decodeBuffer_empty {xs : List Int} {offset : Nat} (h : xs = [] ∨ xs.length ≤ offset) (s : State) :
    exec (.decodeBuffer (some xs) offset) s = .next (s.respond (.statusIndex .errorNullOrInvalidParam offset)) := by
  rw [← List.length_eq_zero_iff] at h
  rw [exec, execDecodeBuffer, if_pos h, finish_eq]

theorem bufferOf_append (bs cs : List Byte) : bufferOf (bs ++ cs) = bufferOf bs ++ bufferOf cs :=
  List.map_append

theorem drop_bufferOf_append (bs cs : List Byte) : (bufferOf (bs ++ cs)).drop bs.length = bufferOf cs := by
  rw [bufferOf_append]
  exact List.drop_left' (List.length_map _)

/-- A run over bytes whose first non-InProgress status is that of the last one stops past them, whatever follows. -/
theorem consumeRun_dispatchAll {bs : List Byte} {n : Nat} {st : Status} {d : Decoder} (hst : st ≠ .inProgress)
    {s : State} (h : dispatchAll s.cfg bs s.dec = (List.replicate n .inProgress ++ [st], d)) (rest : List Int)
    (i : Nat) :
    (consumeRun (bufferOf bs ++ rest) i s).1.dec = d ∧
      (consumeRun (bufferOf bs ++ rest) i s).2 = (st, i + bs.length) := by
  induction bs generalizing n s i with
  | nil => simp [dispatchAll] at h
  | cons b bs ih =>
    obtain ⟨hstatuses, hd⟩ := Prod.mk.inj h
    have hbyte := consumeByte_byte b s
    rw [bufferOf, List.map_cons, List.cons_append]
    cases n with
    | zero =>
      obtain ⟨hlast, hnil⟩ := List.cons.inj hstatuses
      obtain rfl : bs = [] := by
        cases bs with
        | nil => rfl
        | cons b' bs => cases hnil
      rw [consumeRun_stops (by rw [hbyte, hlast]; exact hst), hbyte]
      exact ⟨hd, by rw [hlast]; rfl⟩
    | succ n =>
      obtain ⟨hfirst, hrest⟩ := List.cons.inj hstatuses
      rw [consumeRun_goes_on (by rw [hbyte, hfirst]), hbyte]
      obtain ⟨hdec, hresult⟩ := ih (n := n) (s := s.commit (dispatchByte s.cfg b s.dec).1) (i := i + 1)
        (Prod.ext hrest hd)
      refine ⟨hdec, hresult.trans ?_⟩
      rw [List.length_cons, Nat.add_assoc, Nat.add_comm 1]

/-- The decoder after the frame ENCODE returns for `p`. -/
def encodedDecoder (cfg : Config) (p : Packet) : Decoder :=
  frameDecoder cfg (hi8 p.type) (lo8 p.type) (hi8 p.count) (lo8 p.count)
    (hi8 (BitVec.ofNat 16 (packetSize p))) (lo8 (BitVec.ofNat 16 (packetSize p))) p.payload

theorem dispatchAll_encoded {s : State} (hinv : s.Inv) (hb : s.AtFrameBoundary) {p : Packet}
    (hcap : p.payload.length ≤ s.cfg.maxPayload.val) :
    dispatchAll s.cfg (frameHeader s.cfg p ++ p.payload) s.dec =
      (List.replicate (7 + p.payload.length) .inProgress ++ [.success], encodedDecoder s.cfg p) :=
  (dispatchAll_at_boundary hinv hb _ _).trans
    (dispatchAll_frame (by rw [be16_hi8_lo8]; exact sizeField_toNat hcap) hcap)

theorem exec_getPacket_encoded {s : State} {cfg : Config} {p : Packet} (h : s.dec = encodedDecoder cfg p) :
    exec .getPacket s =
      .next (s.respond (.retrieved (some ⟨⟨cfg.sop, p.type, p.count, p.payload⟩, s.epoch⟩))) := by
  rw [exec_getPacket, retrievedPacket_of_frame h, be16_hi8_lo8, be16_hi8_lo8]

/-- Where a buffer holds a valid packet's frame from the offset on, DECODE_BUFFER stops past the frame with Success. -/
theorem exec_decodeBuffer_encoded {s : State} (hinv : s.Inv) (hb : s.AtFrameBoundary) {p : Packet}
    (hcap : p.payload.length ≤ s.cfg.maxPayload.val) {xs rest : List Int} {offset : Nat}
    (hdrop : xs.drop offset = bufferOf (frameHeader s.cfg p ++ p.payload) ++ rest) :
    ∃ t, exec (.decodeBuffer (some xs) offset) s = .next t ∧
      t.response = some (.statusIndex .success (offset + (frameHeader s.cfg p ++ p.payload).length)) ∧
      t.cfg = s.cfg ∧ t.dec = encodedDecoder s.cfg p := by
  have hoffset : offset < xs.length := by
    by_contra hpast
    rw [List.drop_eq_nil_of_le (Nat.le_of_not_lt hpast)] at hdrop
    cases hdrop
  obtain ⟨hdec, hresult⟩ := consumeRun_dispatchAll (by decide) (dispatchAll_encoded hinv hb hcap) rest offset
  rw [← hdrop] at hdec hresult
  exact ⟨_, exec_decodeBuffer_run hoffset s, by rw [hresult]; rfl, consumeRun_cfg _ _ s, hdec⟩

/-! ## The obligations

`markerArm`, `sizeArm` and `payloadArm` name the model's arms, so the theorems on the obligations of these names stand
under `Settled`. -/

/-- Settles O49: each call consumes its own frame, and the first one ends in Complete, where the second may start. -/
theorem backToBackFramesInOneBuffer : Obligations.BackToBackFramesInOneBuffer := by
  intro s p p' hinv hboundary hcap hcap'
  obtain ⟨t, hfirst, hstatus, hcfg, hdec⟩ := exec_decodeBuffer_encoded hinv hboundary hcap (offset := 0)
    (bufferOf_append (frameHeader s.cfg p ++ p.payload) (frameHeader s.cfg p' ++ p'.payload))
  have hboundary' : t.AtFrameBoundary := .inr (by rw [hdec]; rfl)
  have hrest := drop_bufferOf_append (frameHeader s.cfg p ++ p.payload) (frameHeader s.cfg p' ++ p'.payload)
  obtain ⟨t', hsecond, hstatus', -, hdec'⟩ :=
    exec_decodeBuffer_encoded (exec_keeps_inv hinv hfirst) hboundary' (by rwa [hcfg]) (rest := [])
      (by rwa [List.append_nil, hcfg])
  rw [Nat.zero_add] at hstatus
  rw [hcfg] at hstatus'
  exact ⟨_, _, t, t', _, _, exec_encode_fits hcap, exec_encode_fits hcap', hfirst, hstatus,
    exec_getPacket_encoded hdec, (samePacket_iff _ _).2 ⟨rfl, rfl, rfl⟩, hsecond, hstatus',
    exec_getPacket_encoded hdec', (samePacket_iff _ _).2 ⟨rfl, rfl, rfl⟩⟩

/-- Settles O16: both the reset operation and a framing fault leave the decoder's reset values, which are the creation
state's. -/
theorem resetIdempotence : Obligations.ResetIdempotence := by
  refine ⟨fun s => ⟨_, rfl, rfl, _, rfl, rfl⟩, fun s t v he hst => ?_⟩
  cases he
  exact consumeByte_framingFault (by simpa using hst)

/-- Settles O21: the first byte waits; the second hands the size validator its value, which rejects it, completes the
frame or latches it. -/
theorem Settled.sizeArm : Obligations.SizeArm := by
  intro s b hp
  obtain ⟨t, he, hepoch, hcfg, hpending, hstatus, hdec⟩ := exec_decodeByte_answers s b
  rw [dispatchByte_awaitingSize hp] at hstatus hdec
  refine ⟨t, he, hepoch, hcfg, hpending, fun hfirst => ?_, fun b0 b1 l hfull => ?_⟩
  · rw [sizeArm_first hfirst] at hstatus hdec
    exact ⟨hstatus, hdec⟩
  · rw [sizeArm_full hfull] at hstatus hdec
    rw [← be16_toNat]
    split_ifs with hcap hzero
    · rw [validateSize_exceeds hcap] at hstatus hdec
      exact ⟨hstatus, hdec⟩
    · have hn : be16 b0 b1 = 0 := BitVec.eq_of_toNat_eq hzero
      rw [hn, validateSize_zero] at hstatus hdec
      exact ⟨hstatus, hdec⟩
    · have hn : be16 b0 b1 ≠ 0 := fun h => hzero (by rw [h]; rfl)
      rw [validateSize_fits hn (Nat.le_of_not_lt hcap)] at hstatus hdec
      exact ⟨hstatus, by rw [hdec]; rfl, by rw [hdec]; rfl⟩

/-- Settles O22: both branches append the byte, and R25's row leaves room for it. -/
theorem Settled.payloadArm : Obligations.PayloadArm := by
  intro s b hp
  obtain ⟨t, he, hepoch, hcfg, hpending, hstatus, hdec⟩ := exec_decodeByte_answers s b
  refine ⟨t, he, hepoch, hcfg, hpending, ?_, fun hinv => ?_⟩
  · split_ifs with hlast
    · rw [dispatchByte_last_payload_byte s.cfg b hp hlast] at hstatus hdec
      exact ⟨hstatus, hdec⟩
    · rw [dispatchByte_payload_byte s.cfg b hp hlast] at hstatus hdec
      exact ⟨hstatus, hdec⟩
  · obtain ⟨hroom, hcap⟩ := hinv.awaitingPayload_room hp
    rw [hdec, dispatchByte_payloadBuf hp, List.length_append, List.length_singleton]
    exact ⟨hroom, hroom.trans_le hcap⟩

/-- Settles O25: an empty input is refused; else the run from the offset starts with its byte, whose result
makes no difference to the rest of the run. -/
theorem decodeBufferRepeatsDecodeByte : Obligations.DecodeBufferRepeatsDecodeByte := by
  refine ⟨fun buf offset => decode_encode (.decodeBuffer buf offset), fun _ _ => rfl,
    fun s xs offset h => exec_decodeBuffer_empty h s, fun s xs offset v hv => ?_⟩
  obtain ⟨hoffset, rfl⟩ := List.getElem?_eq_some_iff.1 hv
  have hrun := exec_decodeBuffer_run hoffset s
  rw [List.drop_eq_getElem_cons hoffset] at hrun
  refine ⟨_, _, rfl, rfl, fun hstop => ?_, fun hgo hend => ?_, fun hgo hmore => ?_⟩
  · rw [hrun, consumeRun_stops hstop]
    rfl
  · rw [hrun, consumeRun_goes_on hgo, List.drop_of_length_le hend.ge, ← hend]
    rfl
  · rw [hrun, consumeRun_goes_on hgo, exec_decodeBuffer_run hmore, consumeRun_respond]
    rfl

/-- Settles O27: GET_PACKET checks both conditions, and in Complete R25's row fills the four field buffers. -/
theorem getPacketOperation : Obligations.GetPacketOperation := by
  refine ⟨decode_encode .getPacket, fun s h => ?_, fun s m1 m0 t1 t0 c1 c0 hp hflag hmarker htype hcount => ?_,
    fun s hinv hp => ?_⟩
  · rw [exec_getPacket, retrievedPacket_incomplete h]
    rfl
  · rw [exec_getPacket, retrievedPacket_complete hp hflag hmarker htype hcount]
    rfl
  · obtain ⟨hmarker, htype, hcount, hflag⟩ := hinv.complete_fields hp
    obtain ⟨t1, t0, ht⟩ := List.length_eq_two.1 htype
    obtain ⟨c1, c0, hc⟩ := List.length_eq_two.1 hcount
    have hget := exec_getPacket s
    rw [retrievedPacket_complete hp hflag hmarker ht hc] at hget
    exact ⟨_, hget, be16_hi8_lo8 s.cfg.sop, by rw [ht]; rfl, by rw [hc]; rfl, rfl, rfl⟩

/-- Settles O44: each pair leaves the reset fields, so the frame after the pairs starts at a frame boundary. -/
theorem resynchronizationInWholePairs : Obligations.ResynchronizationInWholePairs := by
  intro s pairs hreset hpairs
  obtain ⟨t, hfeed, hdec, hcfg, -, hepoch⟩ := feed_eq_dispatchAll (pairs.flatMap fun p => [p.1, p.2]) s
  have hbad : dispatchAll s.cfg (pairs.flatMap fun p => [p.1, p.2]) s.dec =
      (pairs.flatMap fun _ => [.inProgress, .errorInvalidMarker], Decoder.reset) := by
    rw [hreset]
    exact dispatchAll_badPairs hpairs
  rw [hbad] at hfeed hdec
  rw [length_flatMap_pair] at hepoch
  refine ⟨t, hfeed, hdec, hepoch, fun f hf => feed_legalFrame ?_ ?_ (by rwa [hcfg])⟩
  · rw [State.Inv, hdec]
    exact Decoder.reset_rowHolds t.cfg
  · exact .inl (by rw [hdec]; exact ⟨rfl, rfl⟩)

/-- Settles O46: a frame without payload is its header, and the size validator completes size 0. -/
theorem zeroLengthFrame : Obligations.ZeroLengthFrame := by
  refine ⟨fun s t1 t0 c1 c0 hinv hboundary => ?_, fun s hp hbuf => ?_⟩
  · obtain ⟨t, hfeed, hdec⟩ := feed_frame hinv hboundary (t1 := t1) (t0 := t0) (c1 := c1) (c0 := c0) (z1 := 0)
      (z0 := 0) (pl := []) rfl (Nat.zero_le _)
    exact ⟨t, _, hfeed, exec_getPacket t, by rw [retrievedPacket_of_frame hdec]; rfl⟩
  · have hbyte : dispatchByte s.cfg 0 s.dec =
        ({ { s.dec with sizeBuf := [0, 0] }.latchHeader 0 with phase := .complete }, .success) := by
      have hfull : s.dec.sizeBuf ++ [0] = [0, 0] := by rw [hbuf]; rfl
      rw [dispatchByte_awaitingSize hp, sizeArm_full hfull, hfull]
      exact validateSize_zero s.cfg _
    obtain ⟨t, he, -, -, -, hstatus, hdec⟩ := exec_decodeByte_of_dispatch hbyte
    exact ⟨t, he, hstatus, by rw [hdec]⟩

/-- Settles O47: a legal frame is a header and its payload; a pair that is not SOP is judged at its second byte. -/
theorem statusSequenceOfAFrame : Obligations.StatusSequenceOfAFrame := by
  refine ⟨fun s f hinv hboundary hf => feed_legalFrame hinv hboundary hf, fun s b0 b1 hinv hboundary hpair => ?_⟩
  obtain ⟨t, hfeed, hdec, -⟩ := feed_eq_dispatchAll [b0, b1] s
  rw [dispatchAll_at_boundary hinv hboundary, dispatchAll_badPair hpair] at hfeed hdec
  exact ⟨t, hfeed, hdec⟩

/-- Settles O10: a step with nothing pending is no change, so neither is a run. -/
theorem idleBlockHoldsItsState : Obligations.IdleBlockHoldsItsState :=
  fun _ k hp => run_of_idle core (step_idle hp) k

/-- Settles O15: the reset fields are not in Complete, and the count makes every earlier tag stale. -/
theorem resetOperation : Obligations.ResetOperation :=
  ⟨decode_encode .reset, fun _ => ⟨_, rfl, rfl, rfl, rfl, rfl, rfl, exec_getPacket_incomplete Phase.noConfusion,
    fun _ f hq => readRetrieved_after_count rfl hq f⟩⟩

/-- Settles O17: the range check comes before the dispatch and the count of the epoch. -/
theorem outOfRangeByteChangesNothing : Obligations.OutOfRangeByteChangesNothing := by
  intro s v hv
  rw [exec, execDecodeByte, consumeByte_out_of_range hv]
  rfl

/-- Settles O18: the byte is dispatched as the first marker byte after a full reset, which leaves Complete. -/
theorem completeArmStartsNextFrame : Obligations.CompleteArmStartsNextFrame := by
  intro s b hp
  obtain ⟨t, he, hepoch, hcfg, hpending, hstatus, hdec⟩ :=
    exec_decodeByte_of_dispatch (s := s) (b := b) (dispatchByte_complete hp)
  exact ⟨t, he, hstatus, hdec, hepoch, hcfg, hpending, exec_getPacket_incomplete (by simp [hdec]),
    fun _ f hq => readRetrieved_after_count hepoch hq f⟩

/-- Settles O19: the pair is judged only when its second byte completes it. -/
theorem Settled.markerArm : Obligations.MarkerArm := by
  intro s b hp
  obtain ⟨t, he, hepoch, hcfg, hpending, hstatus, hdec⟩ := exec_decodeByte_answers s b
  rw [dispatchByte_awaitingMarker hp] at hstatus hdec
  refine ⟨t, he, hepoch, hcfg, hpending, ?_⟩
  split_ifs with hfirst hsop
  · rw [markerArm_first hfirst] at hstatus hdec
    exact ⟨hstatus, hdec⟩
  · rw [markerArm_sop hfirst hsop] at hstatus hdec
    exact ⟨hstatus, hdec⟩
  · rw [markerArm_fault hfirst hsop] at hstatus hdec
    exact ⟨hstatus, hdec⟩

/-- Settles O20: neither arm looks at the byte's value, and the buffer's length alone moves the phase. -/
theorem typeAndCountArms : Obligations.TypeAndCountArms := by
  refine ⟨fun s b hp => exec_decodeByte_of_dispatch ?_, fun s b hp => exec_decodeByte_of_dispatch ?_⟩
  · rw [dispatchByte_awaitingType hp, typeArm_eq, hp]
  · rw [dispatchByte_awaitingCount hp, countArm_eq, hp]

/-- Settles O28: GET_PACKET only answers, and no operation reads the last answer. -/
theorem retrievalHasNoSideEffect : Obligations.RetrievalHasNoSideEffect := by
  refine fun s => ⟨_, exec_getPacket s, rfl, ⟨_, exec_getPacket _, rfl⟩, fun v => ?_⟩
  simp only [exec, execDecodeByte, finish_eq, consumeByte_respond, State.respond_respond]

end Sys2Proof.Machine
end

section
/-! Proofs for 60_exceptions.md: which operations raise, and on what (R104, R106, R111); what a framing fault and an
invalid byte leave (R105); no input disables an operation or leads out of the invariant (R108, R116, R122). -/

namespace Sys2Proof.Machine

/-! ## Construction faults (R104, R106, R111) -/

/-- The payload an operation holds to the cap before it returns anything: that of the four operations that can raise. -/
def checkedPayload : Instr → Option (List Byte)
  | .encode p => some p.payload
  | .encodeRaw _ _ pl => some pl
  | .pktNew _ _ pl => some pl
  | .pktSetPayload _ pl => some pl
  | .reset => none
  | .decodeByte _ => none
  | .decodeBuffer _ _ => none
  | .getPacket => none
  | .pktSetType _ _ => none
  | .pktSetCount _ _ => none

theorem checkedPayload_eq_some {i : Instr} {pl : List Byte} (h : checkedPayload i = some pl) :
    (∃ a c, i = .pktNew a c pl) ∨ (∃ p, i = .pktSetPayload p pl) ∨ (∃ a c, i = .encodeRaw a c pl) ∨
      (∃ p : Packet, p.payload = pl ∧ i = .encode p) := by
  cases i <;> cases h
  case encode p => exact .inr (.inr (.inr ⟨p, rfl, rfl⟩))
  case encodeRaw a c => exact .inr (.inr (.inl ⟨a, c, rfl⟩))
  case pktNew a c => exact .inl ⟨a, c, rfl⟩
  case pktSetPayload p => exact .inr (.inl ⟨p, rfl⟩)

/-- An overlong payload is raised with its length, and nothing but the result changes. -/
theorem exec_raises {i : Instr} {s : State} {pl : List Byte} (hi : checkedPayload i = some pl)
    (h : s.cfg.maxPayload.val < pl.length) :
    exec i s = .next (s.respond (.raised (.payloadTooLarge pl.length))) := by
  obtain ⟨a, c, rfl⟩ | ⟨p, rfl⟩ | ⟨a, c, rfl⟩ | ⟨p, rfl, rfl⟩ := checkedPayload_eq_some hi
  · rw [exec, execPktNew, buildPacket_exceeds a c h]
    rfl
  · rw [exec, execPktSetPayload, replacePayload_exceeds p h]
    rfl
  · rw [exec, execEncodeRaw, buildPacket_exceeds a c h]
    rfl
  · rw [exec, execEncode, encodeFrame_exceeds h]
    rfl

/-- A payload that fits is not raised: the operation returns its packet or its frame. -/
theorem exec_not_raised_of_fits {i : Instr} {s t : State} {pl : List Byte} (hi : checkedPayload i = some pl)
    (h : pl.length ≤ s.cfg.maxPayload.val) (he : exec i s = .next t) (f : ConstructionFault) :
    t.response ≠ some (.raised f) := by
  obtain ⟨a, c, rfl⟩ | ⟨p, rfl⟩ | ⟨a, c, rfl⟩ | ⟨p, rfl, rfl⟩ := checkedPayload_eq_some hi
  · cases (exec_pktNew_fits a c h).symm.trans he
    simp
  · cases (exec_pktSetPayload_fits p h).symm.trans he
    simp
  · cases (exec_encodeRaw_fits a c h).symm.trans he
    simp
  · cases (exec_encode_fits h).symm.trans he
    simp

/-- An operation without a payload to check raises nothing. -/
theorem exec_not_raised_of_unchecked {i : Instr} {s t : State} (hi : checkedPayload i = none)
    (he : exec i s = .next t) (f : ConstructionFault) : t.response ≠ some (.raised f) := by
  cases i with
  | reset =>
    cases he
    simp
  | decodeByte v =>
    cases he
    simp
  | decodeBuffer buf offset =>
    obtain ⟨st, k, hr, -⟩ := decodeBuffer_status he
    simp [hr]
  | getPacket =>
    cases he
    simp
  | pktSetType p v =>
    cases he
    simp
  | pktSetCount p v =>
    cases he
    simp
  | encode p => cases hi
  | encodeRaw a c pl => cases hi
  | pktNew a c pl => cases hi
  | pktSetPayload p pl => cases hi

/-- Only an overlong payload is raised, and with its own length. -/
theorem exec_raised {i : Instr} {s t : State} {f : ConstructionFault} (he : exec i s = .next t)
    (hr : t.response = some (.raised f)) :
    ∃ pl, checkedPayload i = some pl ∧ s.cfg.maxPayload.val < pl.length ∧ f = .payloadTooLarge pl.length := by
  cases hi : checkedPayload i with
  | none => exact absurd hr (exec_not_raised_of_unchecked hi he f)
  | some pl =>
    obtain hfits | hexceeds := le_or_gt pl.length s.cfg.maxPayload.val
    · exact absurd hr (exec_not_raised_of_fits hi hfits he f)
    · cases (exec_raises hi hexceeds).symm.trans he
      cases hr
      exact ⟨pl, rfl, hexceeds, rfl⟩

/-! ## Framing faults and invalid bytes (R105) -/

/-- No phase answers an in-range byte with ErrorNullOrInvalidParam, so a byte with this status was out of range. -/
theorem consumeByte_invalidParam {v : Int} {s : State} (h : (consumeByte v s).2 = .errorNullOrInvalidParam) :
    (consumeByte v s).1 = s := by
  obtain hv | ⟨b, rfl⟩ := byte_or_out_of_range v
  · rw [consumeByte_out_of_range hv]
  · rw [consumeByte_byte] at h
    obtain ⟨st, hd, ⟨rfl, -⟩ | ⟨rfl, -⟩⟩ | ⟨e, hd, -⟩ | ⟨e, hd⟩ := dispatchByte_cases s.cfg b s.dec <;>
      simp [hd] at h

/-- As `consumeByte_framingFault`, for a run: the fault ends the run, so no later element undoes its reset. -/
theorem consumeRun_framingFault {vs : List Int} {i : Nat} {s : State}
    (h : (consumeRun vs i s).2.1 = .errorInvalidMarker ∨ (consumeRun vs i s).2.1 = .errorPayloadTooLarge) :
    (consumeRun vs i s).1.dec = Decoder.reset := by
  induction vs generalizing i s with
  | nil => simp [consumeRun] at h
  | cons v vs ih =>
    by_cases hst : (consumeByte v s).2 = .inProgress
    · rw [consumeRun_goes_on hst] at h ⊢
      exact ih h
    · rw [consumeRun_stops hst] at h ⊢
      exact consumeByte_framingFault h

/-- As `consumeRun_framingFault`, for DECODE_BUFFER: the status of an empty input is no framing fault. -/
theorem decodeBuffer_framingFault {buf : Option (List Int)} {offset k : Nat} {s t : State} {st : Status}
    (hst : st = .errorInvalidMarker ∨ st = .errorPayloadTooLarge) (he : exec (.decodeBuffer buf offset) s = .next t)
    (hr : t.response = some (.statusIndex st k)) : t.dec = Decoder.reset := by
  obtain h | ⟨xs, -, -, h⟩ := exec_decodeBuffer_cases buf offset s <;> cases h.symm.trans he <;> cases hr
  · simp at hst
  · exact consumeRun_framingFault hst

/-- From the reset fields an in-range byte is a first marker byte (R87). -/
theorem exec_decodeByte_from_reset {t : State} (h : t.dec = Decoder.reset) (b : Byte) :
    ∃ u, exec (.decodeByte b.toNat) t = .next u ∧ u.response = some (.status .inProgress) ∧
      u.dec = { Decoder.reset with markerBuf := [b] } := by
  have hfirst : dispatchByte t.cfg b t.dec = ({ Decoder.reset with markerBuf := [b] }, .inProgress) := by
    rw [h, dispatchByte_awaitingMarker rfl, markerArm_first (by decide)]
    rfl
  obtain ⟨u, he, -, -, -, hr, hdec⟩ := exec_decodeByte_of_dispatch hfirst
  exact ⟨u, he, hr, hdec⟩

/-! ## The obligations -/

/-- Settles O35: an operation checks its payload first; one without a payload, or with one that fits, raises nothing. -/
theorem overlongPayloadsAreRaised : Obligations.OverlongPayloadsAreRaised := by
  refine ⟨fun s p t c pl hexceeds i hi => ?_, fun i s t n he hr => ?_⟩
  · have hpayload : checkedPayload i = some pl := by
      simp only [List.mem_cons, List.not_mem_nil, or_false] at hi
      obtain rfl | rfl | rfl | rfl := hi <;> rfl
    exact exec_raises hpayload hexceeds
  · obtain ⟨pl, hi, hexceeds, hn⟩ := exec_raised he hr
    cases hn
    exact ⟨hexceeds, pl, rfl, checkedPayload_eq_some hi⟩

/-- Settles O24: each framing fault is a full reset that ends its run; an invalid byte is one out of range. -/
theorem framingFaultHandling : Obligations.FramingFaultHandling := by
  refine ⟨fun s t v he hr => ?_, fun s t st hst hsource => ?_⟩
  · cases he
    have hsame : (consumeByte v s).1 = s := consumeByte_invalidParam (by simpa using hr)
    exact ⟨by rw [State.respond_dec, hsame], by rw [State.respond_epoch, hsame]⟩
  · have hreset : t.dec = Decoder.reset := by
      obtain ⟨v, he, hr⟩ | ⟨buf, offset, k, he, hr⟩ := hsource
      · cases he
        cases hr
        exact consumeByte_framingFault hst
      · exact decodeBuffer_framingFault hst he hr
    exact ⟨hreset, exec_decodeByte_from_reset hreset⟩

/-- Settles O12: every operation ends by delivering its result or its raise. -/
theorem everyOperationAnswersInEveryState : Obligations.EveryOperationAnswersInEveryState := by
  intro i s
  obtain ⟨u, r, he, -, -⟩ := exec_answers i s
  exact ⟨_, r, he, rfl⟩

/-- Settles O42: both decode operations answer with a status, and no operation leaves the invariant. -/
theorem noInputEscalates : Obligations.NoInputEscalates := by
  refine fun s hinv => ⟨fun v => ⟨_, _, rfl, rfl, consumeByte_keeps_inv hinv v⟩, fun buf offset => ?_⟩
  obtain ⟨u, r, he, -, -⟩ := exec_answers (.decodeBuffer buf offset) s
  obtain ⟨st, k, hr, -⟩ := decodeBuffer_status he
  exact ⟨_, st, k, he, hr, exec_keeps_inv hinv he⟩

end Sys2Proof.Machine
end

section
/-! Proofs for 70_reset_and_hazards.md: the state at creation (R123, R124), and a host read of a retrieved packet as a step
(R127). -/

namespace Sys2Proof.Machine

/-! ## Reading a retrieved packet (R127) -/

/-- While the epoch is the packet's tag, a read answers with the snapshot's field. -/
theorem readRetrieved_current {q : Retrieved} {s : State} (h : q.tag = s.epoch) (f : PacketField) :
    readRetrieved q f s = .next (s.respond (.field (packetField q.packet f))) := by
  obtain ⟨-, hread⟩ | ⟨htag, -⟩ := readRetrieved_cases q f s
  · exact hread
  · exact absurd h htag

/-- A pending read is the step's action, in the state without it. -/
theorem step_readPacket {s : State} {q : Retrieved} {f : PacketField} {rest : List HostAction}
    (hp : s.pending = .readPacket q f :: rest) : step s = readRetrieved q f (s.withPending rest) :=
  step_action hp

/-! ## The obligations -/

/-- Settles O14: the creation state takes the decoder's reset values and epoch 0, and a configuration's own defaults are
R4's and R5's. -/
theorem creationStateValues : Obligations.CreationStateValues :=
  ⟨fun _ => ⟨rfl, rfl, rfl⟩, rfl⟩

/-- Settles O30: taking the read from the pending actions leaves the epoch, so the tag decides the step; a fault stays for
the run. -/
theorem staleRetrievedPacketReadFaults : Obligations.StaleRetrievedPacketReadFaults := by
  refine ⟨fun s q f rest hp htag => ?_, fun s q f rest k hp htag => ?_⟩
  · have hread : step s = .next ((s.withPending rest).respond (.field (packetField q.packet f))) :=
      (step_readPacket hp).trans (readRetrieved_current (s := s.withPending rest) htag f)
    cases f <;> exact hread
  · have hstep : step s = .fault .stalePacket :=
      (step_readPacket hp).trans (readRetrieved_stale (s := s.withPending rest) htag f)
    exact ⟨hstep, run_of_fault core hstep k⟩

end Sys2Proof.Machine
end
